-- ==== Sys2Proof/Word.lean ====
section
/-! DEFINITION. The word types of IAW-CORE: 32-bit registers and addresses, 8-bit bytes (00_scope.md R7, R8). -/
namespace Sys2Proof

/-- A register value, a command word or a data-memory address (R7: register width and address width are 32). -/
abbrev Word := BitVec 32

/-- A byte of the data memory (R8). -/
abbrev Byte := BitVec 8

end Sys2Proof
end

