-- ==== Sys2Proof/Syntax.lean ====
section
/-! DEFINITION. The instructions of IAW-CORE: its four commands (30_encoding.md R58, spec/opcode_table.json). A command
carries no operand: every operand is a register that the completion step reads (R60). The HOST's register and memory
accesses are no instructions; their types stand in Machine/Access.lean. -/
namespace Sys2Proof

/-- One constructor per row of the opcode map (R58). -/
inductive Instr where
  /-- DECRYPT, word 0x00000001 (40_decrypt.md R73). -/
  | decrypt
  /-- CLASSIFY, word 0x00000002 (44_classify.md R123). -/
  | classify
  /-- DECRYPT_CLASSIFY, word 0x00000003 (40_decrypt.md R74). -/
  | decryptClassify
  /-- DECRYPT_RAW, word 0x00000004 (40_decrypt.md R75). -/
  | decryptRaw
deriving DecidableEq, Repr

end Sys2Proof
end

