-- ==== Sys2Proof/Machine/Access.lean ====
section
/-! DEFINITION. The vocabulary of the HOST interface: registers by name (10_state.md R15), the HOST's accesses
(20_memory.md R37, R38), the two agents (00_scope.md R4), and the lines of a host script (30_encoding.md R62, R63). -/
namespace Sys2Proof.Machine

/-- The sixteen registers of the window, in the order of R15. -/
inductive Reg where
  | id | ctrl | status | cmd
  | srcAddr | srcLen | keyAddr | keyLen
  | ivAddr | ivLen | dstAddr | resLen
  | errExp | errAct | cls | clsSize
deriving DecidableEq, Repr

/-- The agents that take turns in the total order of R50. -/
inductive Agent where
  | host
  | engine
deriving DecidableEq, Repr

/-- One thing a HOST does. `off` is the offset in the register window; its eight bits reach all 0x100 bytes of it and no
more. `bits` is the width of the access, which R39 lets be wrong. -/
inductive HostOp where
  /-- `WR(off, v)` (R38). -/
  | regWrite (bits : Nat) (off : BitVec 8) (v : Word)
  /-- `RD(off)` (R38). -/
  | regRead (bits : Nat) (off : BitVec 8)
  /-- The script's `wait`: read `STATUS`, and read it again until `DONE` is 1 (R63). -/
  | waitDone
  /-- The HOST writes one byte of the data memory by its own means (R37). -/
  | memWrite (addr : Word) (b : Byte)
  /-- The HOST reads one byte of the data memory by its own means (R37). -/
  | memRead (addr : Word)
  /-- The reset input (70_reset_and_hazards.md R146, R160). -/
  | reset
deriving DecidableEq, Repr

/-- What a HOST read returned. -/
inductive ReadResult where
  | reg (off : BitVec 8) (v : Word)
  | mem (addr : Word) (b : Byte)
deriving DecidableEq, Repr

/-- How the HOST touched the data memory: the name that `HostRace` gives the access (R52). -/
inductive AccessKind where
  | read
  | write
deriving DecidableEq, Repr

/-- A register as a script names it: by its name, or as `REG+0x<off>` (R62). -/
inductive RegRef where
  | named (r : Reg)
  | raw (off : BitVec 8)
deriving DecidableEq, Repr

/-- The buffers that the pseudo-instruction `buf` sets (R63). -/
inductive BufName where
  | src | key | iv
deriving DecidableEq, Repr

/-- One line of a host script (R62) or one of its pseudo-instructions (R63). -/
inductive ScriptLine where
  /-- `wr <REG>, <value>` -/
  | wr (r : RegRef) (v : Word)
  /-- `rd <REG> -> <value>`; the value states the result and may be left out. -/
  | rd (r : RegRef) (stated : Option Word)
  /-- `mem[<addr>] = <hex bytes>`: a launch premise, no operation. -/
  | mem (addr : Word) (bytes : List Byte)
  /-- `; <text>` (or an empty line) -/
  | comment
  | launch (i : Instr)
  | wait
  | run (i : Instr)
  | ack
  | clrovr
  | buf (b : BufName) (addr len : Word)
  | dst (addr : Word)
deriving DecidableEq, Repr

/-- The encoding of a script operation, a `(W|R, offset, value)` triple (R64); a read whose result is not stated, and a
polling read, have no value. -/
inductive Triple where
  | w (off : BitVec 8) (v : Word)
  | r (off : BitVec 8) (stated : Option Word)
  | poll (off : BitVec 8)
deriving DecidableEq, Repr

end Sys2Proof.Machine
end

