-- ==== Sys2Proof/WellFormed.lean ====
section
/-! DEFINITION. Well-formedness. A command word carries no operand (30_encoding.md R60), so every term of `Instr` is well
formed; the checks that can fail are those on the HOST's accesses (20_memory.md R38, R39) and on script lines (R62). -/
namespace Sys2Proof

/-- Every instruction is well formed: it has no field that could be out of range (R60). -/
def Instr.wf : Instr → Bool
  | .decrypt => true
  | .classify => true
  | .decryptClassify => true
  | .decryptRaw => true

namespace Machine

/-- A register-window access of exactly 32 bits at an offset that is a multiple of 4 (R38). -/
def windowAccessWf (bits : Nat) (off : BitVec 8) : Bool :=
  bits == 32 && off.toNat % 4 == 0

/-- A HOST move that the spec gives a meaning on every machine: a window access has the form of R38. -/
def HostOp.wf : HostOp → Bool
  | .regWrite bits off _ => windowAccessWf bits off
  | .regRead bits off => windowAccessWf bits off
  | .waitDone => true
  | .memWrite _ _ => true
  | .memRead _ => true
  | .reset => true

/-- A raw offset in a script is that of a whole register (R38, R62). -/
def RegRef.wf : RegRef → Bool
  | .named _ => true
  | .raw off => off.toNat % 4 == 0

/-- A script line whose register references are offsets of whole registers, and whose launch premise stays inside the
32-bit address space (R37, R62); that the bound is not `MEM_SIZE`, which a line does not know, is assumption 21. -/
def ScriptLine.wf : ScriptLine → Bool
  | .wr r _ => r.wf
  | .rd r _ => r.wf
  | .mem addr bytes => decide (addr.toNat + bytes.length ≤ 2 ^ 32)
  | .comment => true
  | .launch i => i.wf
  | .wait => true
  | .run i => i.wf
  | .ack => true
  | .clrovr => true
  | .buf _ _ _ => true
  | .dst _ => true

end Machine

end Sys2Proof
end

