-- ==== Sys2Proof/Decode.lean ====
section
/-! DEFINITION. Decoding and encoding of the command word (30_encoding.md R56-R59), and the byte lanes that carry a
register's word (20_memory.md R40). Decoding is total on all 2^32 words and rejects by name. -/
namespace Sys2Proof

/-- Why a word is not a command: R57's `ILLEGAL`, by cause, and (for bytes that do not even make a word) truncation. -/
inductive Illegal where
  /-- bits [31:4] are not all 0 (R56, R57) -/
  | reservedBits
  /-- `OPCODE` 0x0 or 0x5 .. 0xF (R59) -/
  | unassignedOpcode
  /-- fewer than the four byte lanes of a word (R61: every command is one 32-bit word) -/
  | truncated
deriving DecidableEq, Repr

/-- `OPCODE`, bits [3:0] (R56). -/
def opcodeField (c : Word) : BitVec 4 := c.extractLsb' 0 4

/-- `RSVD`, bits [31:4] (R56). -/
def rsvdField (c : Word) : BitVec 28 := c.extractLsb' 4 28

/-- The opcode map (R58). -/
def opcodeMap (op : BitVec 4) : Option Instr :=
  match op.toNat with
  | 1 => some .decrypt
  | 2 => some .classify
  | 3 => some .decryptClassify
  | 4 => some .decryptRaw
  | _ => none

/-- R57's `decode`. -/
def decode (c : Word) : Except Illegal Instr :=
  if rsvdField c ≠ 0 then .error .reservedBits
  else
    match opcodeMap (opcodeField c) with
    | some i => .ok i
    | none => .error .unassignedOpcode

/-- The opcode of a command (R58). -/
def Instr.opcode : Instr → BitVec 4
  | .decrypt => 0x1
  | .classify => 0x2
  | .decryptClassify => 0x3
  | .decryptRaw => 0x4

/-- The command word of an instruction: `RSVD` zero above `OPCODE` (R56). -/
def encode (i : Instr) : Word := (0 : BitVec 28) ++ i.opcode

/-- The four byte lanes of a word, lane 0 first: lane 0 carries bits [7:0], lane 3 bits [31:24] (R40). -/
def lanesOfWord (c : Word) : List Byte :=
  [c.extractLsb' 0 8, c.extractLsb' 8 8, c.extractLsb' 16 8, c.extractLsb' 24 8]

/-- The word on four byte lanes (R40). -/
def wordOfLanes (l0 l1 l2 l3 : Byte) : Word := l3 ++ l2 ++ l1 ++ l0

/-- Decoding from byte lanes: the command and the bytes after it, total on any bytes. -/
def decodeLanes : List Byte → Except Illegal (Instr × List Byte)
  | l0 :: l1 :: l2 :: l3 :: rest =>
    match decode (wordOfLanes l0 l1 l2 l3) with
    | .ok i => .ok (i, rest)
    | .error e => .error e
  | _ => .error .truncated

/-- What the decoder reads from an opcode-table row's bits `w`, of which the table gives `nbits` (the bits above are 0).
The only row length of the table is 32; a longer word is no command. -/
def decodeTableWord (nbits w : Nat) : Option Instr :=
  let bits := w % 2 ^ nbits
  if bits < 2 ^ 32 then
    match decodeLanes (lanesOfWord (BitVec.ofNat 32 bits)) with
    | .ok (i, _) => some i
    | .error _ => none
  else none

end Sys2Proof
end

