-- ==== Sys2Proof/Config.lean ====
section
/-! DEFINITION. What one implementation fixes (00_scope.md R7) and the free values of the spec. Every `opaque` below has
no body: nothing in Lean can evaluate it, so a theorem that mentions it holds for every value it could have. -/
namespace Sys2Proof

/-- The OPEN implementation parameters of R7. They ride in `State.params`, which no step changes, so that a statement
about every state is a statement about every implementation (assumption 4). -/
structure Params where
  /-- The highest data-memory address: `MEM_SIZE` is this plus one, so `1 <= MEM_SIZE <= 2^32` (R7, D5) by its type. -/
  memTop : Word
  /-- `REG_BASE` is 256 times this: R7 asks for a 256-byte aligned base and gives the HOST bus no width. -/
  regPage : Nat
  /-- `ID_VERSION` (R18, D28). -/
  idVersion : BitVec 16
  /-- `B64_STRICT_TAIL` (R88, D16). -/
  b64StrictTail : Bool
deriving DecidableEq, Repr

/-- The machine's highest data-memory address (OPEN, R7). -/
opaque Config.memTop : Word

/-- The machine's register window page (OPEN, R7). -/
opaque Config.regPage : Nat

/-- The machine's `ID_VERSION` (OPEN, R7, U7). -/
opaque Config.idVersion : BitVec 16

/-- The machine's `B64_STRICT_TAIL` (OPEN, R7, U8). -/
opaque Config.b64StrictTail : Bool

/-- What the data memory holds at power-on, address by address: a draw (R148, U3). -/
opaque Config.powerOnByte : Nat → Byte

/-- The n-th byte drawn for a late failure's destination (`FAIL_DST`, R79, U1) or for the destination of a command that
reset abandoned (R147, U2). -/
opaque Config.drawByte : Nat → Byte

/-- The parameters of the machine that `State.reset` is. -/
def Config.params : Params where
  memTop := Config.memTop
  regPage := Config.regPage
  idVersion := Config.idVersion
  b64StrictTail := Config.b64StrictTail

end Sys2Proof
end

