-- ==== Sys2Proof/Machine/State.lean ====
section
/-! DEFINITION. The state of IAW-CORE as plain data: every register and hidden register of 10_state.md, the data memory
of 20_memory.md, and what the HOST has still to do. -/
namespace Sys2Proof.Machine

/-- `STATUS.ERR_CODE` (R129): 0 to 11 in this order; the values 12 to 15 do not exist (R25). -/
inductive ErrCode where
  | none | emptyInput | unalignedCiphertext | base64DecodeFailure
  | keyLengthMismatch | ivLengthMismatch | cipherInitFailure | paddingValidationFailure
  | emptyPlaintextAfterUnpad | illegalCommand | busError | bufferOverlap
deriving DecidableEq, Repr

/-- `STATUS.ERR_FIELD` (R130): 0 to 4 in this order; the values 5 to 7 do not exist (R25). -/
inductive ErrField where
  | none | key | iv | src | dst
deriving DecidableEq, Repr

/-- ImageTypeTag (R124): 0 to 5 in this order; the values 6 and 7 do not exist (R33). -/
inductive Tag where
  | unknown | jpeg | png | gif | webp | bmp
deriving DecidableEq, Repr

/-- The fields of `STATUS` (R20). Its reserved bits read 0 and are not stored. -/
structure Status where
  busy : Bool
  done : Bool
  err : Bool
  ovr : Bool
  code : ErrCode
  field : ErrField
deriving DecidableEq, Repr

/-- The fields of `CLS` (R33). Its reserved bits read 0 and are not stored. -/
structure Cls where
  tag : Tag
  valid : Bool
deriving DecidableEq, Repr

/-- Four bytes: a column of the AES state, or a word of the expanded key with `b0` its most significant byte (R96). -/
structure Column where
  b0 : Byte
  b1 : Byte
  b2 : Byte
  b3 : Byte
deriving DecidableEq, Repr

/-- The data memory: addresses strictly rising, no entry equal to the power-on byte of its address (`Memory.wf`). -/
abbrev Memory := List Host.Cell

/-- Why a run is faulted. -/
inductive Fault where
  /-- Raised by a HOST data-memory access while a command is in flight that writes one of its input regions or touches
  its destination region (20_memory.md R52, U4). The spec asks for this fault. SAFE: the chip's outcome is not specified. -/
  | hostRace (kind : AccessKind) (addr : Word)
  /-- Raised by a HOST data-memory access at an address `>= MEM_SIZE`, which does not exist (20_memory.md R37). SAFE: the
  model stops where a platform might go on. -/
  | noSuchAddress (addr : Word)
deriving DecidableEq, Repr

/-- Why a step is refused. -/
inductive Refusal where
  /-- An instruction without a meaning. SAFE. No arm of `exec` answers it: all four commands have their meaning. -/
  | notModelled (mnemonic : String)
  /-- Raised by a HOST access to the register window of a width other than 32 bits or at an offset that is not a
  multiple of 4 (20_memory.md R39, U5). The spec asks for this refusal. SAFE. -/
  | registerAccess (bits : Nat) (off : BitVec 8)
deriving DecidableEq, Repr

/-- The whole machine. -/
structure State where
  /-- The implementation parameters of R7 (`ID` is computed from them, R18); no step changes them. -/
  params : Params
  /-- `CTRL.IRQ_EN` (R19). -/
  irqEn : Bool
  /-- `STATUS` (R20). -/
  status : Status
  /-- `SRC_ADDR`, `SRC_LEN` (R27). -/
  srcAddr : Word
  srcLen : Word
  /-- `KEY_ADDR`, `KEY_LEN` (R28). -/
  keyAddr : Word
  keyLen : Word
  /-- `IV_ADDR`, `IV_LEN` (R29). -/
  ivAddr : Word
  ivLen : Word
  /-- `DST_ADDR` (R30). -/
  dstAddr : Word
  /-- `RES_LEN` (R31). -/
  resLen : Word
  /-- `ERR_EXP`, `ERR_ACT` (R32). -/
  errExp : Word
  errAct : Word
  /-- `CLS` (R33). -/
  cls : Cls
  /-- `CLS_SIZE` (R34). -/
  clsSize : Word
  /-- `PENDING` (R35): the launched word, `none` for the spec's "no value" (R146). -/
  pending : Option Word
  /-- `KEYBUF` (R35): `none` for "no value" (R133, R146). -/
  keyBuf : Option (List Byte)
  /-- `IVBUF` (R35). -/
  ivBuf : Option (List Byte)
  /-- The expanded key `w[0..59]` (R35). -/
  keySched : Option (List Column)
  /-- The chaining block `PREV` (R35). -/
  prev : Option (List Byte)
  /-- The data memory (R41). -/
  mem : Memory
  /-- The MODEL's own: how many free bytes were drawn (assumption 6). -/
  draws : Nat
  /-- The MODEL's own: the HOST accesses still to come, in order (R50; assumption 2). -/
  script : List HostOp
  /-- The MODEL's own: who takes the next turns of the total order of R50 (assumption 2). -/
  schedule : List Agent
  /-- The MODEL's own: what the HOST's reads returned, newest first (assumption 13). -/
  reads : List ReadResult
deriving DecidableEq, Repr

/-- The machine right after power-on reset (R146, R15). The model's own fields are empty (assumptions 2, 6, 13). -/
def State.reset : State where
  params := Config.params
  irqEn := false
  status := { busy := false, done := false, err := false, ovr := false, code := .none, field := .none }
  srcAddr := 0
  srcLen := 0
  keyAddr := 0
  keyLen := 0
  ivAddr := 0
  ivLen := 0
  dstAddr := 0
  resLen := 0
  errExp := 0
  errAct := 0
  cls := { tag := .unknown, valid := false }
  clsSize := 0
  pending := none
  keyBuf := none
  ivBuf := none
  keySched := none
  prev := none
  mem := []
  draws := 0
  script := []
  schedule := []
  reads := []

end Sys2Proof.Machine
end

