-- ==== Sys2Proof/Machine/Flags.lean ====
section
/-! DEFINITION. The numeric codes and the packed words of `STATUS`, `CTRL`, `CLS` and `ID` (10_state.md R18-R25, R33), the
write-one-to-clear of `STATUS`, and the interrupt output (60_exceptions.md R137). -/
namespace Sys2Proof.Machine

/-- Error codes (R129). -/
def ErrCode.num : ErrCode → Nat
  | .none => 0
  | .emptyInput => 1
  | .unalignedCiphertext => 2
  | .base64DecodeFailure => 3
  | .keyLengthMismatch => 4
  | .ivLengthMismatch => 5
  | .cipherInitFailure => 6
  | .paddingValidationFailure => 7
  | .emptyPlaintextAfterUnpad => 8
  | .illegalCommand => 9
  | .busError => 10
  | .bufferOverlap => 11

/-- The late failures (R12, R134): those raised after the CBC stage has written the destination. -/
def ErrCode.late : ErrCode → Bool
  | .paddingValidationFailure => true
  | .emptyPlaintextAfterUnpad => true
  | _ => false

/-- Field codes (R130). -/
def ErrField.num : ErrField → Nat
  | .none => 0
  | .key => 1
  | .iv => 2
  | .src => 3
  | .dst => 4

/-- Tag codes (R124). -/
def Tag.num : Tag → Nat
  | .unknown => 0
  | .jpeg => 1
  | .png => 2
  | .gif => 3
  | .webp => 4
  | .bmp => 5

/-- `STATUS` as a word: `BUSY` [0], `DONE` [1], `ERR` [2], `OVR` [3], `ERR_CODE` [11:8], `ERR_FIELD` [14:12]; every
reserved bit reads 0 (R20). -/
def Status.word (st : Status) : Word :=
  BitVec.ofNat 32 (st.busy.toNat + 2 * st.done.toNat + 4 * st.err.toNat + 8 * st.ovr.toNat +
    2 ^ 8 * st.code.num + 2 ^ 12 * st.field.num)

/-- A HOST write of `STATUS`: a 1 in bit 1 clears `DONE`, a 1 in bit 3 clears `OVR`; nothing else changes (R16, R20,
R22-R24). -/
def Status.writeOneToClear (st : Status) (v : Word) : Status :=
  { st with done := st.done && !v.getLsbD 1, ovr := st.ovr && !v.getLsbD 3 }

/-- `CTRL` as a word: `IRQ_EN` is bit 0, the rest reads 0 (R19). -/
def ctrlWord (irqEn : Bool) : Word := BitVec.ofNat 32 irqEn.toNat

/-- `CLS` as a word: `TAG` [2:0], `VALID` [3] (R33). -/
def Cls.word (c : Cls) : Word := BitVec.ofNat 32 (c.tag.num + 8 * c.valid.toNat)

/-- The classification of a tag: `VALID` is 1 exactly when the tag is not unknown (R125). -/
def Cls.ofTag (t : Tag) : Cls := { tag := t, valid := t != .unknown }

/-- `CLS` after a launch or a reset: 0 (R33). -/
def Cls.zero : Cls := { tag := .unknown, valid := false }

/-- `ID` as a word: `ALGO` [23:16] is 0x01, `VERSION` [15:0] the parameter (R18). -/
def idWord (p : Params) : Word := (0x0001 : BitVec 16) ++ p.idVersion

/-- The interrupt output: `irq = STATUS.DONE and CTRL.IRQ_EN` at every instant (R137). -/
def State.irq (s : State) : Bool := s.status.done && s.irqEn

end Sys2Proof.Machine
end

