-- ==== Sys2Proof/Machine/Ops.lean ====
section
/-! DEFINITION. The named operations over memory and registers: reading and writing the data memory (20_memory.md R41),
draws, the launch (40_decrypt.md R67), the ends of a command (60_exceptions.md R133-R135: `raise CmdError` is this
hardware's only exception, and it is a result), and reset (70_reset_and_hazards.md R146, R147). -/
namespace Sys2Proof.Machine

/-! ### The data memory -/

/-- What an address that no entry lists reads as: the power-on byte, a free value (R148; assumption 5). -/
def unlistedByte (a : Nat) : Byte := Config.powerOnByte a

/-- The canonical form: addresses strictly rising, no entry equal to what its address reads as unlisted. -/
abbrev Memory.wf (m : Memory) : Prop :=
  m.Pairwise (fun c d => c.1 < d.1) ∧ ∀ c ∈ m, c.2 ≠ unlistedByte c.1

/-- `mem[a]` (R41). -/
def readByte : Memory → Nat → Byte
  | [], a => unlistedByte a
  | c :: m, a => if c.1 = a then c.2 else readByte m a

/-- Puts a cell before the first cell with a higher address. -/
def insertCell (a : Nat) (v : Byte) : Memory → Memory
  | [] => [(a, v)]
  | c :: m => if a < c.1 then (a, v) :: c :: m else c :: insertCell a v m

/-- `mem[a] <- v` (R41), in canonical form. -/
def writeByte (m : Memory) (a : Nat) (v : Byte) : Memory :=
  let rest := m.filter (fun c => c.1 != a)
  if v = unlistedByte a then rest else insertCell a v rest

/-- `MemRead(addr, n)` (R41). -/
def memRead (m : Memory) (addr : Nat) : Nat → List Byte
  | 0 => []
  | n + 1 => readByte m addr :: memRead m (addr + 1) n

/-- `MemWrite(addr, n, v)` with `n` the length of `v` (R41). -/
def memWrite (m : Memory) (addr : Nat) : List Byte → Memory
  | [] => m
  | b :: bs => memWrite (writeByte m addr b) (addr + 1) bs

/-- `MEM_SIZE` (R7). -/
def State.memSize (s : State) : Nat := s.params.memTop.toNat + 1

/-- `n` fresh free bytes, from the `k`-th on (assumption 6). -/
def drawBytes (k : Nat) : Nat → List Byte
  | 0 => []
  | n + 1 => Config.drawByte k :: drawBytes (k + 1) n

/-! ### Launch and completion -/

/-- The launch of a command word, as one step (R67): `OVR` and the operand registers keep their values. -/
def launch (c : Word) (s : State) : State :=
  { s with
    pending := some c
    status := { s.status with busy := true, done := false, err := false, code := .none, field := .none }
    resLen := 0
    errExp := 0
    errAct := 0
    cls := Cls.zero
    clsSize := 0 }

/-- The end of the completion step (R133): the working copies lose their values, `BUSY <- 0`, `DONE <- 1`. -/
def publish (s : State) : State :=
  { s with
    keyBuf := none
    ivBuf := none
    keySched := none
    prev := none
    status := { s.status with busy := false, done := true } }

/-- `finish_ok()` (R135): `ERR`, its code and field, `ERR_EXP` and `ERR_ACT` stay as the launch left them. -/
def finishOk (s : State) : State := publish s

/-- What `raise CmdError` takes (R134). -/
structure CmdError where
  code : ErrCode
  field : ErrField
  exp : Word
  act : Word
deriving DecidableEq, Repr

/-- `raise CmdError(code, field, exp, act)` (R134): the error is published, a late failure leaves drawn bytes in the
destination region (R79), and the completion step finishes. -/
def raiseCmdError (e : CmdError) (s : State) : State :=
  publish
    { s with
      status := { s.status with err := true, code := e.code, field := e.field }
      errExp := e.exp
      errAct := e.act
      mem := if e.code.late then memWrite s.mem s.dstAddr.toNat (drawBytes s.draws s.srcLen.toNat) else s.mem
      draws := if e.code.late then s.draws + s.srcLen.toNat else s.draws }

/-- `PENDING` as the completion step reads it. While `BUSY = 1` it has a value (`State.Legal`); in the states without
one, which no run reaches, it reads as 0 (assumption 8). -/
def State.pendingWord (s : State) : Word := s.pending.getD 0

/-- The completion of a word outside the opcode map (R59, R69): IllegalCommand with `ERR_ACT` the word. -/
def illegalCommand (s : State) : State :=
  raiseCmdError { code := .illegalCommand, field := .none, exp := 0, act := s.pendingWord } s

/-! ### Reset -/

/-- Whether the command in flight is one of the three decrypt commands, which alone have a destination region (R30). -/
def State.decryptInFlight (s : State) : Bool :=
  s.status.busy &&
    match decode s.pendingWord with
    | .ok .decrypt => true
    | .ok .decryptClassify => true
    | .ok .decryptRaw => true
    | .ok .classify => false
    | .error _ => false

/-- How many bytes of the destination region exist: a region need not have been checked when reset arrives. -/
def State.dstBytesInMemory (s : State) : Nat := min s.srcLen.toNat (s.memSize - s.dstAddr.toNat)

/-- The reset input (R146). A decrypt command in flight is abandoned and its destination becomes a draw; no other byte of
the data memory changes (R147, R148). `ID` (the parameters) and what the HOST is doing are not reset. -/
def resetInput (s : State) : State :=
  { State.reset with
    params := s.params
    mem := if s.decryptInFlight then memWrite s.mem s.dstAddr.toNat (drawBytes s.draws s.dstBytesInMemory) else s.mem
    draws := if s.decryptInFlight then s.draws + s.dstBytesInMemory else s.draws
    script := s.script
    schedule := s.schedule
    reads := s.reads }

end Sys2Proof.Machine
end

