-- ==== Sys2Proof/Machine/Operands.lean ====
section
/-! DEFINITION. The operands of a command, regions of the data memory (20_memory.md R43), and every check on them before
a byte is decoded: the Input Validator (40_decrypt.md R72), `regions_check` (R44), `overlap_check` (R45) and the cipher's
initialisation check (42_aes256_cbc.md R109). Lengths and addresses are unbounded naturals, so nothing wraps (R8). -/
namespace Sys2Proof.Machine

/-- A region `(addr, len)` (R43). -/
structure Region where
  addr : Nat
  len : Nat
deriving DecidableEq, Repr

/-- Byte `a` is in the region. -/
def Region.contains (r : Region) (a : Nat) : Bool := decide (r.addr ≤ a) && decide (a < r.addr + r.len)

/-- A region is valid when it is empty or ends inside the data memory, computed without wrap-around (R43). -/
def Region.valid (r : Region) (memSize : Nat) : Bool := r.len == 0 || decide (r.addr + r.len ≤ memSize)

/-- Two regions overlap when both are non-empty and each starts before the other ends (R43). -/
def Region.overlaps (r t : Region) : Bool :=
  r.len != 0 && t.len != 0 && decide (r.addr < t.addr + t.len) && decide (t.addr < r.addr + r.len)

/-- The ciphertext, or the buffer to classify (R27). -/
def State.srcRegion (s : State) : Region := { addr := s.srcAddr.toNat, len := s.srcLen.toNat }

/-- The key text, or the raw key (R28). -/
def State.keyRegion (s : State) : Region := { addr := s.keyAddr.toNat, len := s.keyLen.toNat }

/-- The IV text, or the raw IV (R29). -/
def State.ivRegion (s : State) : Region := { addr := s.ivAddr.toNat, len := s.ivLen.toNat }

/-- The destination of a decrypt command: as long as the ciphertext (R30). -/
def State.dstRegion (s : State) : Region := { addr := s.dstAddr.toNat, len := s.srcLen.toNat }

/-- The bytes of a region, `MemRead` of it (R41). -/
def State.regionBytes (s : State) (r : Region) : List Byte := memRead s.mem r.addr r.len

/-- `validate_text()` (R72): rows 1-4 of R71. -/
def validateText (s : State) : Option CmdError :=
  if s.keyLen = 0 then some { code := .emptyInput, field := .key, exp := 0, act := 0 }
  else if s.ivLen = 0 then some { code := .emptyInput, field := .iv, exp := 0, act := 0 }
  else if s.srcLen = 0 then some { code := .emptyInput, field := .src, exp := 0, act := 0 }
  else if s.srcLen.toNat % 16 ≠ 0 then
    some { code := .unalignedCiphertext, field := .src, exp := 16, act := s.srcLen }
  else none

/-- `regions_check(list)` (R44): BusError for the first region that is not valid, with its address. -/
def regionsCheck (memSize : Nat) : List (ErrField × Region) → Option CmdError
  | [] => none
  | (f, r) :: rest =>
    if r.valid memSize then regionsCheck memSize rest
    else some { code := .busError, field := f, exp := 0, act := BitVec.ofNat 32 r.addr }

/-- The list a decrypt command checks (R44). -/
def State.decryptRegions (s : State) : List (ErrField × Region) :=
  [(.key, s.keyRegion), (.iv, s.ivRegion), (.src, s.srcRegion), (.dst, s.dstRegion)]

/-- The list CLASSIFY checks (R44). -/
def State.classifyRegions (s : State) : List (ErrField × Region) := [(.src, s.srcRegion)]

/-- `overlap_check()` (R45): the first of SRC, KEY, IV that overlaps the destination. -/
def overlapCheck (s : State) : Option CmdError :=
  if s.srcRegion.overlaps s.dstRegion then some { code := .bufferOverlap, field := .src, exp := 0, act := 0 }
  else if s.keyRegion.overlaps s.dstRegion then some { code := .bufferOverlap, field := .key, exp := 0, act := 0 }
  else if s.ivRegion.overlaps s.dstRegion then some { code := .bufferOverlap, field := .iv, exp := 0, act := 0 }
  else none

/-- Rows 1-6 of R71, in that order: the checks every decrypt command makes before it reads a byte. -/
def decryptChecks (s : State) : Option CmdError :=
  match validateText s with
  | some e => some e
  | none =>
    match regionsCheck s.memSize s.decryptRegions with
    | some e => some e
    | none => overlapCheck s

/-- `CBC_Init(klen, ivlen)` (R109): the key length first. -/
def cbcInit (klen ivlen : Nat) : Option CmdError :=
  if klen ≠ 32 then some { code := .cipherInitFailure, field := .key, exp := 32, act := BitVec.ofNat 32 klen }
  else if ivlen ≠ 16 then some { code := .cipherInitFailure, field := .iv, exp := 16, act := BitVec.ofNat 32 ivlen }
  else none

end Sys2Proof.Machine
end

