-- ==== Sys2Proof/Machine/Sniff.lean ====
section
/-! DEFINITION. The Format Sniffer (44_classify.md R117-R121). -/
namespace Sys2Proof.Machine

/-- FF D8 FF (R117). -/
def sigJpeg : List Byte := [0xFF, 0xD8, 0xFF]

/-- 89 50 4E 47 0D 0A 1A 0A (R117). -/
def sigPng : List Byte := [0x89, 0x50, 0x4E, 0x47, 0x0D, 0x0A, 0x1A, 0x0A]

/-- "GIF87a" (R117). -/
def sigGif87a : List Byte := [0x47, 0x49, 0x46, 0x38, 0x37, 0x61]

/-- "GIF89a" (R117). -/
def sigGif89a : List Byte := [0x47, 0x49, 0x46, 0x38, 0x39, 0x61]

/-- "RIFF" (R117). -/
def sigRiff : List Byte := [0x52, 0x49, 0x46, 0x46]

/-- "WEBP" (R117). -/
def sigWebp : List Byte := [0x57, 0x45, 0x42, 0x50]

/-- "BM" (R117). -/
def sigBmp : List Byte := [0x42, 0x4D]

/-- `sniff(buf)` (R118): first match wins, and a buffer of fewer than 8 bytes is unknown whatever it holds (R119). -/
def sniff (buf : List Byte) : Tag :=
  let n := buf.length
  if n < 8 then .unknown
  else if buf.take 3 = sigJpeg then .jpeg
  else if buf.take 8 = sigPng then .png
  else if buf.take 6 = sigGif87a ∨ buf.take 6 = sigGif89a then .gif
  else if 12 ≤ n ∧ buf.take 4 = sigRiff ∧ (buf.drop 8).take 4 = sigWebp then .webp
  else if buf.take 2 = sigBmp then .bmp
  else .unknown

end Sys2Proof.Machine
end

