-- ==== Sys2Proof/Machine/Classify.lean ====
section
/-! DEFINITION. The CLASSIFY command (44_classify.md R123). -/
namespace Sys2Proof.Machine

/-- CLASSIFY (R123): `KEY_*`, `IV_*` and `DST_ADDR` are not read, no memory is written. -/
def execClassify (s : State) : Host.Outcome State Fault Refusal :=
  match regionsCheck s.memSize s.classifyRegions with
  | some e => .next (raiseCmdError e s)
  | none =>
    .next (finishOk { s with cls := Cls.ofTag (sniff (s.regionBytes s.srcRegion)), clsSize := s.srcLen })

end Sys2Proof.Machine
end

