-- ==== Sys2Proof/Machine/AesTables.lean ====
section
/-! DEFINITION. The two tables of AES, row by row as 42_aes256_cbc.md R97 and R98 print them. -/
namespace Sys2Proof.Machine

/-- The S-box of R97, row 0. -/
def sboxRow0 : List Byte :=
  [0x63, 0x7C, 0x77, 0x7B, 0xF2, 0x6B, 0x6F, 0xC5, 0x30, 0x01, 0x67, 0x2B, 0xFE, 0xD7, 0xAB, 0x76]

/-- The S-box of R97, row 1. -/
def sboxRow1 : List Byte :=
  [0xCA, 0x82, 0xC9, 0x7D, 0xFA, 0x59, 0x47, 0xF0, 0xAD, 0xD4, 0xA2, 0xAF, 0x9C, 0xA4, 0x72, 0xC0]

/-- The S-box of R97, row 2. -/
def sboxRow2 : List Byte :=
  [0xB7, 0xFD, 0x93, 0x26, 0x36, 0x3F, 0xF7, 0xCC, 0x34, 0xA5, 0xE5, 0xF1, 0x71, 0xD8, 0x31, 0x15]

/-- The S-box of R97, row 3. -/
def sboxRow3 : List Byte :=
  [0x04, 0xC7, 0x23, 0xC3, 0x18, 0x96, 0x05, 0x9A, 0x07, 0x12, 0x80, 0xE2, 0xEB, 0x27, 0xB2, 0x75]

/-- The S-box of R97, row 4. -/
def sboxRow4 : List Byte :=
  [0x09, 0x83, 0x2C, 0x1A, 0x1B, 0x6E, 0x5A, 0xA0, 0x52, 0x3B, 0xD6, 0xB3, 0x29, 0xE3, 0x2F, 0x84]

/-- The S-box of R97, row 5. -/
def sboxRow5 : List Byte :=
  [0x53, 0xD1, 0x00, 0xED, 0x20, 0xFC, 0xB1, 0x5B, 0x6A, 0xCB, 0xBE, 0x39, 0x4A, 0x4C, 0x58, 0xCF]

/-- The S-box of R97, row 6. -/
def sboxRow6 : List Byte :=
  [0xD0, 0xEF, 0xAA, 0xFB, 0x43, 0x4D, 0x33, 0x85, 0x45, 0xF9, 0x02, 0x7F, 0x50, 0x3C, 0x9F, 0xA8]

/-- The S-box of R97, row 7. -/
def sboxRow7 : List Byte :=
  [0x51, 0xA3, 0x40, 0x8F, 0x92, 0x9D, 0x38, 0xF5, 0xBC, 0xB6, 0xDA, 0x21, 0x10, 0xFF, 0xF3, 0xD2]

/-- The S-box of R97, row 8. -/
def sboxRow8 : List Byte :=
  [0xCD, 0x0C, 0x13, 0xEC, 0x5F, 0x97, 0x44, 0x17, 0xC4, 0xA7, 0x7E, 0x3D, 0x64, 0x5D, 0x19, 0x73]

/-- The S-box of R97, row 9. -/
def sboxRow9 : List Byte :=
  [0x60, 0x81, 0x4F, 0xDC, 0x22, 0x2A, 0x90, 0x88, 0x46, 0xEE, 0xB8, 0x14, 0xDE, 0x5E, 0x0B, 0xDB]

/-- The S-box of R97, row A. -/
def sboxRowA : List Byte :=
  [0xE0, 0x32, 0x3A, 0x0A, 0x49, 0x06, 0x24, 0x5C, 0xC2, 0xD3, 0xAC, 0x62, 0x91, 0x95, 0xE4, 0x79]

/-- The S-box of R97, row B. -/
def sboxRowB : List Byte :=
  [0xE7, 0xC8, 0x37, 0x6D, 0x8D, 0xD5, 0x4E, 0xA9, 0x6C, 0x56, 0xF4, 0xEA, 0x65, 0x7A, 0xAE, 0x08]

/-- The S-box of R97, row C. -/
def sboxRowC : List Byte :=
  [0xBA, 0x78, 0x25, 0x2E, 0x1C, 0xA6, 0xB4, 0xC6, 0xE8, 0xDD, 0x74, 0x1F, 0x4B, 0xBD, 0x8B, 0x8A]

/-- The S-box of R97, row D. -/
def sboxRowD : List Byte :=
  [0x70, 0x3E, 0xB5, 0x66, 0x48, 0x03, 0xF6, 0x0E, 0x61, 0x35, 0x57, 0xB9, 0x86, 0xC1, 0x1D, 0x9E]

/-- The S-box of R97, row E. -/
def sboxRowE : List Byte :=
  [0xE1, 0xF8, 0x98, 0x11, 0x69, 0xD9, 0x8E, 0x94, 0x9B, 0x1E, 0x87, 0xE9, 0xCE, 0x55, 0x28, 0xDF]

/-- The S-box of R97, row F. -/
def sboxRowF : List Byte :=
  [0x8C, 0xA1, 0x89, 0x0D, 0xBF, 0xE6, 0x42, 0x68, 0x41, 0x99, 0x2D, 0x0F, 0xB0, 0x54, 0xBB, 0x16]

/-- The S-box of R97: the row is the high nibble, the column the low nibble. -/
def sboxRows : List (List Byte) :=
  [sboxRow0, sboxRow1, sboxRow2, sboxRow3] ++
    [sboxRow4, sboxRow5, sboxRow6, sboxRow7] ++
    [sboxRow8, sboxRow9, sboxRowA, sboxRowB] ++
    [sboxRowC, sboxRowD, sboxRowE, sboxRowF]

/-- The inverse S-box of R98, row 0. -/
def invSboxRow0 : List Byte :=
  [0x52, 0x09, 0x6A, 0xD5, 0x30, 0x36, 0xA5, 0x38, 0xBF, 0x40, 0xA3, 0x9E, 0x81, 0xF3, 0xD7, 0xFB]

/-- The inverse S-box of R98, row 1. -/
def invSboxRow1 : List Byte :=
  [0x7C, 0xE3, 0x39, 0x82, 0x9B, 0x2F, 0xFF, 0x87, 0x34, 0x8E, 0x43, 0x44, 0xC4, 0xDE, 0xE9, 0xCB]

/-- The inverse S-box of R98, row 2. -/
def invSboxRow2 : List Byte :=
  [0x54, 0x7B, 0x94, 0x32, 0xA6, 0xC2, 0x23, 0x3D, 0xEE, 0x4C, 0x95, 0x0B, 0x42, 0xFA, 0xC3, 0x4E]

/-- The inverse S-box of R98, row 3. -/
def invSboxRow3 : List Byte :=
  [0x08, 0x2E, 0xA1, 0x66, 0x28, 0xD9, 0x24, 0xB2, 0x76, 0x5B, 0xA2, 0x49, 0x6D, 0x8B, 0xD1, 0x25]

/-- The inverse S-box of R98, row 4. -/
def invSboxRow4 : List Byte :=
  [0x72, 0xF8, 0xF6, 0x64, 0x86, 0x68, 0x98, 0x16, 0xD4, 0xA4, 0x5C, 0xCC, 0x5D, 0x65, 0xB6, 0x92]

/-- The inverse S-box of R98, row 5. -/
def invSboxRow5 : List Byte :=
  [0x6C, 0x70, 0x48, 0x50, 0xFD, 0xED, 0xB9, 0xDA, 0x5E, 0x15, 0x46, 0x57, 0xA7, 0x8D, 0x9D, 0x84]

/-- The inverse S-box of R98, row 6. -/
def invSboxRow6 : List Byte :=
  [0x90, 0xD8, 0xAB, 0x00, 0x8C, 0xBC, 0xD3, 0x0A, 0xF7, 0xE4, 0x58, 0x05, 0xB8, 0xB3, 0x45, 0x06]

/-- The inverse S-box of R98, row 7. -/
def invSboxRow7 : List Byte :=
  [0xD0, 0x2C, 0x1E, 0x8F, 0xCA, 0x3F, 0x0F, 0x02, 0xC1, 0xAF, 0xBD, 0x03, 0x01, 0x13, 0x8A, 0x6B]

/-- The inverse S-box of R98, row 8. -/
def invSboxRow8 : List Byte :=
  [0x3A, 0x91, 0x11, 0x41, 0x4F, 0x67, 0xDC, 0xEA, 0x97, 0xF2, 0xCF, 0xCE, 0xF0, 0xB4, 0xE6, 0x73]

/-- The inverse S-box of R98, row 9. -/
def invSboxRow9 : List Byte :=
  [0x96, 0xAC, 0x74, 0x22, 0xE7, 0xAD, 0x35, 0x85, 0xE2, 0xF9, 0x37, 0xE8, 0x1C, 0x75, 0xDF, 0x6E]

/-- The inverse S-box of R98, row A. -/
def invSboxRowA : List Byte :=
  [0x47, 0xF1, 0x1A, 0x71, 0x1D, 0x29, 0xC5, 0x89, 0x6F, 0xB7, 0x62, 0x0E, 0xAA, 0x18, 0xBE, 0x1B]

/-- The inverse S-box of R98, row B. -/
def invSboxRowB : List Byte :=
  [0xFC, 0x56, 0x3E, 0x4B, 0xC6, 0xD2, 0x79, 0x20, 0x9A, 0xDB, 0xC0, 0xFE, 0x78, 0xCD, 0x5A, 0xF4]

/-- The inverse S-box of R98, row C. -/
def invSboxRowC : List Byte :=
  [0x1F, 0xDD, 0xA8, 0x33, 0x88, 0x07, 0xC7, 0x31, 0xB1, 0x12, 0x10, 0x59, 0x27, 0x80, 0xEC, 0x5F]

/-- The inverse S-box of R98, row D. -/
def invSboxRowD : List Byte :=
  [0x60, 0x51, 0x7F, 0xA9, 0x19, 0xB5, 0x4A, 0x0D, 0x2D, 0xE5, 0x7A, 0x9F, 0x93, 0xC9, 0x9C, 0xEF]

/-- The inverse S-box of R98, row E. -/
def invSboxRowE : List Byte :=
  [0xA0, 0xE0, 0x3B, 0x4D, 0xAE, 0x2A, 0xF5, 0xB0, 0xC8, 0xEB, 0xBB, 0x3C, 0x83, 0x53, 0x99, 0x61]

/-- The inverse S-box of R98, row F. -/
def invSboxRowF : List Byte :=
  [0x17, 0x2B, 0x04, 0x7E, 0xBA, 0x77, 0xD6, 0x26, 0xE1, 0x69, 0x14, 0x63, 0x55, 0x21, 0x0C, 0x7D]

/-- The inverse S-box of R98: the row is the high nibble, the column the low nibble. -/
def invSboxRows : List (List Byte) :=
  [invSboxRow0, invSboxRow1, invSboxRow2, invSboxRow3] ++
    [invSboxRow4, invSboxRow5, invSboxRow6, invSboxRow7] ++
    [invSboxRow8, invSboxRow9, invSboxRowA, invSboxRowB] ++
    [invSboxRowC, invSboxRowD, invSboxRowE, invSboxRowF]

/-- A table entry: row the high nibble, column the low nibble. -/
def tableAt (rows : List (List Byte)) (b : Byte) : Byte := (rows.getD (b.toNat / 16) []).getD (b.toNat % 16) 0

/-- `Sbox[b]` (R97). -/
def sbox (b : Byte) : Byte := tableAt sboxRows b

/-- `InvSbox[b]` (R98). -/
def invSbox (b : Byte) : Byte := tableAt invSboxRows b

end Sys2Proof.Machine
end

