-- ==== Sys2Proof/Machine/Aes.lean ====
section
/-! DEFINITION. AES-256: field arithmetic (42_aes256_cbc.md R94, R95), the state (R96), the inverse round transforms
(R99-R101), the key expansion (R102-R104), the inverse cipher (R106), and CBC decryption (R107). The state is four
columns of four bytes; a word of the expanded key is a column too. -/
namespace Sys2Proof.Machine

/-! ### The field -/

/-- `xtime(a)` (R95): `a • 0x02`. -/
def xtime (a : Byte) : Byte := (a <<< 1) ^^^ (if a.getLsbD 7 then 0x1B else 0x00)

/-- `a • b` (R94) from the low `k` bits of `b`: `a` times `x^i` for every bit `i` of `b`, added. -/
def gfMulBits (a b : Byte) : Nat → Byte
  | 0 => 0
  | k + 1 => (if b.getLsbD 0 then a else 0) ^^^ gfMulBits (xtime a) (b >>> 1) k

/-- `a • b`: polynomial multiplication modulo `x^8 + x^4 + x^3 + x + 1` (R94). -/
def gfMul (a b : Byte) : Byte := gfMulBits a b 8

/-- `a • 0x09` (R95). -/
def mul09 (a : Byte) : Byte := xtime (xtime (xtime a)) ^^^ a

/-- `a • 0x0B` (R95). -/
def mul0B (a : Byte) : Byte := xtime (xtime (xtime a)) ^^^ xtime a ^^^ a

/-- `a • 0x0D` (R95). -/
def mul0D (a : Byte) : Byte := xtime (xtime (xtime a)) ^^^ xtime (xtime a) ^^^ a

/-- `a • 0x0E` (R95). -/
def mul0E (a : Byte) : Byte := xtime (xtime (xtime a)) ^^^ xtime (xtime a) ^^^ xtime a

/-! ### The state -/

/-- A column that is all zero. -/
def Column.zero : Column := { b0 := 0, b1 := 0, b2 := 0, b3 := 0 }

/-- Byte by byte `xor`. -/
def Column.xor (a b : Column) : Column :=
  { b0 := a.b0 ^^^ b.b0, b1 := a.b1 ^^^ b.b1, b2 := a.b2 ^^^ b.b2, b3 := a.b3 ^^^ b.b3 }

/-- One function on every byte. -/
def Column.map (f : Byte → Byte) (a : Column) : Column :=
  { b0 := f a.b0, b1 := f a.b1, b2 := f a.b2, b3 := f a.b3 }

/-- The bytes, row 0 first. -/
def Column.bytes (a : Column) : List Byte := [a.b0, a.b1, a.b2, a.b3]

/-- The column of bytes `i .. i+4` of a byte sequence. -/
def columnAt (bs : List Byte) (i : Nat) : Column :=
  { b0 := bs.getD i 0, b1 := bs.getD (i + 1) 0, b2 := bs.getD (i + 2) 0, b3 := bs.getD (i + 3) 0 }

/-- The AES state `s[r][c]` (R96): `ck.br` is row `r`, column `k`. -/
structure AesBlock where
  c0 : Column
  c1 : Column
  c2 : Column
  c3 : Column
deriving DecidableEq, Repr

/-- `s[r][c] = in[r + 4c]` (R96). -/
def loadBlock (bs : List Byte) : AesBlock :=
  { c0 := columnAt bs 0, c1 := columnAt bs 4, c2 := columnAt bs 8, c3 := columnAt bs 12 }

/-- `out[r + 4c] = s[r][c]` (R96). -/
def storeBlock (s : AesBlock) : List Byte := s.c0.bytes ++ s.c1.bytes ++ s.c2.bytes ++ s.c3.bytes

/-- One function on every column. -/
def AesBlock.mapColumns (f : Column → Column) (s : AesBlock) : AesBlock :=
  { c0 := f s.c0, c1 := f s.c1, c2 := f s.c2, c3 := f s.c3 }

/-- `InvShiftRows` (R99): `s'[r][(c + r) mod 4] = s[r][c]`. -/
def invShiftRows (s : AesBlock) : AesBlock :=
  { c0 := { b0 := s.c0.b0, b1 := s.c3.b1, b2 := s.c2.b2, b3 := s.c1.b3 }
    c1 := { b0 := s.c1.b0, b1 := s.c0.b1, b2 := s.c3.b2, b3 := s.c2.b3 }
    c2 := { b0 := s.c2.b0, b1 := s.c1.b1, b2 := s.c0.b2, b3 := s.c3.b3 }
    c3 := { b0 := s.c3.b0, b1 := s.c2.b1, b2 := s.c1.b2, b3 := s.c0.b3 } }

/-- `InvSubBytes` (R101). -/
def invSubBytes (s : AesBlock) : AesBlock := s.mapColumns (Column.map invSbox)

/-- One column of `InvMixColumns`: the matrix of R100. -/
def invMixColumn (a : Column) : Column :=
  { b0 := mul0E a.b0 ^^^ mul0B a.b1 ^^^ mul0D a.b2 ^^^ mul09 a.b3
    b1 := mul09 a.b0 ^^^ mul0E a.b1 ^^^ mul0B a.b2 ^^^ mul0D a.b3
    b2 := mul0D a.b0 ^^^ mul09 a.b1 ^^^ mul0E a.b2 ^^^ mul0B a.b3
    b3 := mul0B a.b0 ^^^ mul0D a.b1 ^^^ mul09 a.b2 ^^^ mul0E a.b3 }

/-- `InvMixColumns` (R100). -/
def invMixColumns (s : AesBlock) : AesBlock := s.mapColumns invMixColumn

/-- `AddRoundKey(round)` (R101): column `c` with word `w[4*round + c]`. -/
def addRoundKey (w : List Column) (round : Nat) (s : AesBlock) : AesBlock :=
  { c0 := s.c0.xor (w.getD (4 * round) Column.zero)
    c1 := s.c1.xor (w.getD (4 * round + 1) Column.zero)
    c2 := s.c2.xor (w.getD (4 * round + 2) Column.zero)
    c3 := s.c3.xor (w.getD (4 * round + 3) Column.zero) }

/-! ### The key expansion -/

/-- `rc_j` (R103): `rc_1 = 0x01`, `rc_(j+1) = xtime(rc_j)`. -/
def rcByte : Nat → Byte
  | 0 => 0
  | 1 => 0x01
  | j + 2 => xtime (rcByte (j + 1))

/-- `Rcon[j]` (R103). -/
def rcon (j : Nat) : Column := { b0 := rcByte j, b1 := 0, b2 := 0, b3 := 0 }

/-- `RotWord` (R104). -/
def rotWord (a : Column) : Column := { b0 := a.b1, b1 := a.b2, b2 := a.b3, b3 := a.b0 }

/-- `SubWord` (R104). -/
def subWord (a : Column) : Column := a.map sbox

/-- What `w[i]` adds to `w[i-8]` (R102), from `t = w[i-1]`. -/
def expandTemp (i : Nat) (t : Column) : Column :=
  if i % 8 = 0 then (subWord (rotWord t)).xor (rcon (i / 8))
  else if i % 8 = 4 then subWord t
  else t

/-- The words `w[0 .. i)` of the key expansion, in order: eight from the key, then `w[i] = w[i-8] xor t` (R102). -/
def expandWords (key : List Byte) : Nat → List Column
  | 0 => [columnAt key 0, columnAt key 4, columnAt key 8, columnAt key 12,
          columnAt key 16, columnAt key 20, columnAt key 24, columnAt key 28]
  | n + 1 =>
    let ws := expandWords key n
    ws ++ [(ws.getD n Column.zero).xor (expandTemp (n + 8) (ws.getD (n + 7) Column.zero))]

/-- `KeyExpansion(key)` (R102): the 60 words `w[0..59]`. -/
def keyExpansion (key : List Byte) : List Column := expandWords key 52

/-! ### The inverse cipher and CBC -/

/-- One full round of the inverse cipher (R106). -/
def invRound (w : List Column) (round : Nat) (s : AesBlock) : AesBlock :=
  invMixColumns (addRoundKey w round (invSubBytes (invShiftRows s)))

/-- The rounds `r` down to 1 (R106). -/
def invRounds (w : List Column) : Nat → AesBlock → AesBlock
  | 0, s => s
  | r + 1, s => invRounds w r (invRound w (r + 1) s)

/-- The inverse cipher on a state (R106): round key 14, rounds 13 down to 1, and the last round without InvMixColumns. -/
def invCipherBlock (w : List Column) (s : AesBlock) : AesBlock :=
  addRoundKey w 0 (invSubBytes (invShiftRows (invRounds w 13 (addRoundKey w 14 s))))

/-- `AES256_InvCipher(in, w)` (R106), from 16 bytes to 16 bytes. -/
def aes256InvCipher (block : List Byte) (w : List Column) : List Byte := storeBlock (invCipherBlock w (loadBlock block))

/-- Byte by byte `xor` of two byte sequences (R8). -/
def xorBytes (a b : List Byte) : List Byte := List.zipWith (· ^^^ ·) a b

/-- `m` blocks of CBC decryption from the chaining block `prev` on (R107): the ciphertext block is what chains. -/
def cbcBlocks (w : List Column) : Nat → List Byte → List Byte → List Byte
  | 0, _, _ => []
  | m + 1, prev, ct =>
    xorBytes (aes256InvCipher (ct.take 16) w) prev ++ cbcBlocks w m (ct.take 16) (ct.drop 16)

/-- `CBC_Decrypt(ct, key, iv)` (R107). -/
def cbcDecrypt (ct key iv : List Byte) : List Byte := cbcBlocks (keyExpansion key) (ct.length / 16) iv ct

/-- The chaining block after the last block: the last ciphertext block (R107's `PREV`). -/
def cbcLastPrev (ct : List Byte) : List Byte := ct.drop (ct.length - 16)

end Sys2Proof.Machine
end

