-- ==== Sys2Proof/Machine/Base64.lean ====
section
/-! DEFINITION. The base64 decoder (41_base64.md): RFC 4648 alphabet, padding required, nothing skipped. -/
namespace Sys2Proof.Machine

/-- The value of a character, `none` outside the alphabet (R85). -/
def b64Value (c : Byte) : Option (BitVec 6) :=
  let n := c.toNat
  if 0x41 ≤ n ∧ n ≤ 0x5A then some (BitVec.ofNat 6 (n - 0x41))
  else if 0x61 ≤ n ∧ n ≤ 0x7A then some (BitVec.ofNat 6 (n - 0x61 + 26))
  else if 0x30 ≤ n ∧ n ≤ 0x39 then some (BitVec.ofNat 6 (n - 0x30 + 52))
  else if n = 0x2B then some 62
  else if n = 0x2F then some 63
  else none

/-- The pad character `=` (R86). -/
def padChar : Byte := 0x3D

/-- The number of trailing pad characters, at most two (R92). -/
def b64PadCount (text : List Byte) : Nat :=
  if text.getD (text.length - 1) 0 = padChar then
    if text.getD (text.length - 2) 0 = padChar then 2 else 1
  else 0

/-- The values of all characters, `none` if one is outside the alphabet. -/
def b64Values : List Byte → Option (List (BitVec 6))
  | [] => some []
  | c :: cs =>
    match b64Value c, b64Values cs with
    | some v, some vs => some (v :: vs)
    | _, _ => none

/-- The three bytes of a quantum, most significant sextet first (R90): `q = v0 << 18 | v1 << 12 | v2 << 6 | v3`. -/
def b64Quantum (v0 v1 v2 v3 : BitVec 6) : List Byte :=
  let q : BitVec 24 := v0 ++ v1 ++ v2 ++ v3
  [q.extractLsb' 16 8, q.extractLsb' 8 8, q.extractLsb' 0 8]

/-- All quanta in order. -/
def b64Quanta : List (BitVec 6) → List Byte
  | v0 :: v1 :: v2 :: v3 :: vs => b64Quantum v0 v1 v2 v3 ++ b64Quanta vs
  | _ => []

/-- The unused bits of the last quantum are zero (R88): with one pad the last data character's value is a multiple of 4,
with two pads of 16. -/
def b64TailZero (pads : Nat) (dataValues : List (BitVec 6)) : Bool :=
  let last := (dataValues.getD (dataValues.length - 1) 0).toNat
  if pads = 1 then last % 4 == 0
  else if pads = 2 then last % 16 == 0
  else true

/-- `b64decode(s)` (R92); `none` is FAIL. `strict` is `B64_STRICT_TAIL`. -/
def b64decode (strict : Bool) (text : List Byte) : Option (List Byte) :=
  if text.length % 4 ≠ 0 then none
  else
    let p := b64PadCount text
    match b64Values (text.take (text.length - p)) with
    | none => none
    | some vs =>
      if strict && !b64TailZero p vs then none
      else some ((b64Quanta (vs ++ List.replicate p 0)).take (3 * text.length / 4 - p))

end Sys2Proof.Machine
end

