-- ==== Sys2Proof/Machine/Pkcs7.lean ====
section
/-! DEFINITION. The Padding Remover (43_pkcs7.md). -/
namespace Sys2Proof.Machine

/-- What `pkcs7_unpad` returns (R112). -/
inductive Unpadded where
  | padFail
  | empty
  | plaintext (r : List Byte)
deriving DecidableEq, Repr

/-- `pkcs7_unpad(buf)` (R112): the range of the final byte (R113), then the last `n` bytes (R114), then the empty
result (R115). -/
def pkcs7Unpad (buf : List Byte) : Unpadded :=
  let len := buf.length
  let last := buf.getD (len - 1) 0
  let n := last.toNat
  if n < 1 ∨ 16 < n then .padFail
  else if (buf.drop (len - n)).all (fun b => b == last) then
    if len - n = 0 then .empty else .plaintext (buf.take (len - n))
  else .padFail

end Sys2Proof.Machine
end

