-- ==== Sys2Proof/Machine/Decrypt.lean ====
section
/-! DEFINITION. The three decrypt commands (40_decrypt.md R73-R75). They share one pipeline and differ in where the key
and the IV come from and in what follows the padding remover. -/
namespace Sys2Proof.Machine

/-- The key and the IV that a command decrypts with. -/
structure KeyIv where
  key : List Byte
  iv : List Byte
deriving DecidableEq, Repr

/-- Rows 7-10 of R71, in that order: both texts are decoded before either length is checked (R93). -/
def textKeyIv (s : State) : Except CmdError KeyIv :=
  match b64decode s.params.b64StrictTail (s.regionBytes s.keyRegion) with
  | none => .error { code := .base64DecodeFailure, field := .key, exp := 0, act := 0 }
  | some key =>
    match b64decode s.params.b64StrictTail (s.regionBytes s.ivRegion) with
    | none => .error { code := .base64DecodeFailure, field := .iv, exp := 0, act := 0 }
    | some iv =>
      if key.length ≠ 32 then
        .error { code := .keyLengthMismatch, field := .key, exp := 32, act := BitVec.ofNat 32 key.length }
      else if iv.length ≠ 16 then
        .error { code := .ivLengthMismatch, field := .iv, exp := 16, act := BitVec.ofNat 32 iv.length }
      else
        -- R76: the engine's own check, on the decoded lengths, which always passes here
        match cbcInit key.length iv.length with
        | some e => .error e
        | none => .ok { key := key, iv := iv }

/-- Rows 11-12 of R71 and the raw bytes (R75). -/
def rawKeyIv (s : State) : Except CmdError KeyIv :=
  match cbcInit s.keyLen.toNat s.ivLen.toNat with
  | some e => .error e
  | none => .ok { key := memRead s.mem s.keyAddr.toNat 32, iv := memRead s.mem s.ivAddr.toNat 16 }

/-- How the pipeline ends: an error to raise, or the plaintext, each with the state reached. -/
inductive Pipeline where
  | failed (e : CmdError) (s : State)
  | plaintext (r : List Byte) (s : State)
deriving DecidableEq, Repr

/-- The Block-Cipher Engine's part of a completion step: the working copies of R35 are made, and the full decrypted
buffer is written to the destination region (R73). -/
def cipherStage (k : KeyIv) (s : State) : State :=
  let ct := s.regionBytes s.srcRegion
  { s with
    keyBuf := some k.key
    ivBuf := some k.iv
    keySched := some (keyExpansion k.key)
    prev := some (cbcLastPrev ct)
    mem := memWrite s.mem s.dstAddr.toNat (cbcDecrypt ct k.key k.iv) }

/-- From `CBC_Decrypt` to `x[RES_LEN] <- len(r)` (R73): rows 13 and 14 of R71 are the late failures. -/
def cbcAndUnpad (k : KeyIv) (s : State) : Pipeline :=
  match pkcs7Unpad (cbcDecrypt (s.regionBytes s.srcRegion) k.key k.iv) with
  | .padFail => .failed { code := .paddingValidationFailure, field := .none, exp := 0, act := 0 } (cipherStage k s)
  | .empty => .failed { code := .emptyPlaintextAfterUnpad, field := .none, exp := 0, act := 0 } (cipherStage k s)
  | .plaintext r => .plaintext r { cipherStage k s with resLen := BitVec.ofNat 32 r.length }

/-- The whole pipeline of a decrypt command (R71): the checks, the key and the IV, then the cipher and the padding. -/
def decryptPipeline (keys : Except CmdError KeyIv) (s : State) : Pipeline :=
  match decryptChecks s with
  | some e => .failed e s
  | none =>
    match keys with
    | .error e => .failed e s
    | .ok k => cbcAndUnpad k s

/-- The end of a command that does not classify: an error is raised, or `finish_ok()` (R73). -/
def endDecrypt : Pipeline → State
  | .failed e s => raiseCmdError e s
  | .plaintext _ s => finishOk s

/-- The end of a command that classifies its plaintext (R74): no classification is made of a failed decrypt. -/
def endDecryptClassify : Pipeline → State
  | .failed e s => raiseCmdError e s
  | .plaintext r s => finishOk { s with cls := Cls.ofTag (sniff r), clsSize := s.resLen }

/-- DECRYPT (R73). -/
def execDecrypt (s : State) : Host.Outcome State Fault Refusal :=
  .next (endDecrypt (decryptPipeline (textKeyIv s) s))

/-- DECRYPT_CLASSIFY (R74). -/
def execDecryptClassify (s : State) : Host.Outcome State Fault Refusal :=
  .next (endDecryptClassify (decryptPipeline (textKeyIv s) s))

/-- DECRYPT_RAW (R75). -/
def execDecryptRaw (s : State) : Host.Outcome State Fault Refusal :=
  .next (endDecrypt (decryptPipeline (rawKeyIv s) s))

end Sys2Proof.Machine
end

