-- ==== Sys2Proof/Machine/Dispatch.lean ====
section
/-! DEFINITION. `dispatch` (40_decrypt.md R69) over the decoded command: one completion step of the ENGINE. -/
namespace Sys2Proof.Machine

def exec (i : Instr) (s : State) : Host.Outcome State Fault Refusal :=
  match i with
  | .decrypt => Sys2Proof.Machine.execDecrypt s
  | .classify => Sys2Proof.Machine.execClassify s
  | .decryptClassify => Sys2Proof.Machine.execDecryptClassify s
  | .decryptRaw => Sys2Proof.Machine.execDecryptRaw s

end Sys2Proof.Machine
end

