-- ==== Sys2Proof/Machine/Registers.lean ====
section
/-! DEFINITION. The register window (10_state.md R15-R17, 20_memory.md R38-R40): offsets and names, reads, writes. -/
namespace Sys2Proof.Machine

/-- The register's number in the map of R15. -/
def Reg.num : Reg → Nat
  | .id => 0
  | .ctrl => 1
  | .status => 2
  | .cmd => 3
  | .srcAddr => 4
  | .srcLen => 5
  | .keyAddr => 6
  | .keyLen => 7
  | .ivAddr => 8
  | .ivLen => 9
  | .dstAddr => 10
  | .resLen => 11
  | .errExp => 12
  | .errAct => 13
  | .cls => 14
  | .clsSize => 15

/-- `off(R)` (R15). -/
def Reg.offset (r : Reg) : BitVec 8 := BitVec.ofNat 8 (4 * r.num)

/-- The register map in the order of R15. -/
def registerMap : List Reg :=
  [.id, .ctrl, .status, .cmd, .srcAddr, .srcLen, .keyAddr, .keyLen,
   .ivAddr, .ivLen, .dstAddr, .resLen, .errExp, .errAct, .cls, .clsSize]

/-- The register at an offset; `none` for the reserved offsets 0x40-0xFC (R17). Only offsets that are multiples of 4 are
asked (R38). -/
def Reg.ofOffset (off : BitVec 8) : Option Reg := registerMap[off.toNat / 4]?

/-- The HOST-bus address of an offset (R15, R64); no rule reads it (U10). -/
def Params.busAddress (p : Params) (off : BitVec 8) : Nat := 256 * p.regPage + off.toNat

/-- What a HOST read of a register returns (R15, R16): `CMD` is write only and reads 0 (R26). -/
def State.regWord (s : State) : Reg → Word
  | .id => idWord s.params
  | .ctrl => ctrlWord s.irqEn
  | .status => s.status.word
  | .cmd => 0
  | .srcAddr => s.srcAddr
  | .srcLen => s.srcLen
  | .keyAddr => s.keyAddr
  | .keyLen => s.keyLen
  | .ivAddr => s.ivAddr
  | .ivLen => s.ivLen
  | .dstAddr => s.dstAddr
  | .resLen => s.resLen
  | .errExp => s.errExp
  | .errAct => s.errAct
  | .cls => s.cls.word
  | .clsSize => s.clsSize

/-- `RD(off)` (R38): a reserved offset reads 0 (R17). -/
def State.readOffset (s : State) (off : BitVec 8) : Word :=
  match Reg.ofOffset off with
  | some r => s.regWord r
  | none => 0

/-- A write to `CMD` or to an operand register while `BUSY = 1` is ignored and sets `OVR` (R24, R68). -/
def State.overrun (s : State) : State := { s with status := { s.status with ovr := true } }

/-- A write that `BUSY = 1` turns away (R68). -/
def State.unlessBusy (s : State) (written : State) : State := if s.status.busy then s.overrun else written

/-- `WR(R, v)`: the access type of the register (R16) applied to the value. -/
def State.writeReg (s : State) (r : Reg) (v : Word) : State :=
  match r with
  | .id => s
  | .ctrl => { s with irqEn := v.getLsbD 0 }
  | .status => { s with status := s.status.writeOneToClear v }
  | .cmd => s.unlessBusy (launch v s)
  | .srcAddr => s.unlessBusy { s with srcAddr := v }
  | .srcLen => s.unlessBusy { s with srcLen := v }
  | .keyAddr => s.unlessBusy { s with keyAddr := v }
  | .keyLen => s.unlessBusy { s with keyLen := v }
  | .ivAddr => s.unlessBusy { s with ivAddr := v }
  | .ivLen => s.unlessBusy { s with ivLen := v }
  | .dstAddr => s.unlessBusy { s with dstAddr := v }
  | .resLen => s
  | .errExp => s
  | .errAct => s
  | .cls => s
  | .clsSize => s

/-- `WR(off, v)` (R38): a write to a reserved offset has no effect (R17). -/
def State.writeOffset (s : State) (off : BitVec 8) (v : Word) : State :=
  match Reg.ofOffset off with
  | some r => s.writeReg r v
  | none => s

end Sys2Proof.Machine
end

