-- ==== Sys2Proof/Machine/HostAgent.lean ====
section
/-! DEFINITION. The HOST's moves (20_memory.md R37-R39, R52; 30_encoding.md R63; 70_reset_and_hazards.md R146). -/
namespace Sys2Proof.Machine

/-- The regions that the command in flight reads (R52): the source, and for a decrypt command the key and the IV too. A
word outside the opcode map reads none. -/
def State.flightInputs (s : State) : List Region :=
  if s.status.busy then
    match decode s.pendingWord with
    | .ok .classify => [s.srcRegion]
    | .ok .decrypt => [s.srcRegion, s.keyRegion, s.ivRegion]
    | .ok .decryptClassify => [s.srcRegion, s.keyRegion, s.ivRegion]
    | .ok .decryptRaw => [s.srcRegion, s.keyRegion, s.ivRegion]
    | .error _ => []
  else []

/-- The destination region of the command in flight (R52): only a decrypt command has one. -/
def State.flightDst (s : State) : List Region := if s.decryptInFlight then [s.dstRegion] else []

/-- A HOST write of byte `a` breaks the obligation of R52. -/
def State.writeRaces (s : State) (a : Nat) : Bool :=
  s.flightInputs.any (·.contains a) || s.flightDst.any (·.contains a)

/-- A HOST read of byte `a` breaks the obligation of R52. -/
def State.readRaces (s : State) (a : Nat) : Bool := s.flightDst.any (·.contains a)

/-- The HOST keeps what a read returned. -/
def State.observe (s : State) (x : ReadResult) : State := { s with reads := x :: s.reads }

/-- The HOST reads the register at `off`: no side effect on any register or on the data memory (R16). -/
def hostRegRead (off : BitVec 8) (s : State) : State := s.observe (.reg off (s.readOffset off))

/-- One poll of `wait` (R63): it is still to be done again while `DONE` reads 0. -/
def hostPoll (s : State) : State :=
  let polled := hostRegRead Reg.status.offset s
  if s.status.done then polled else { polled with script := .waitDone :: polled.script }

/-- A HOST write of one data-memory byte (R37), which must exist and must not race (R52). -/
def hostMemWrite (addr : Word) (b : Byte) (s : State) : Host.Outcome State Fault Refusal :=
  if s.memSize ≤ addr.toNat then .fault (.noSuchAddress addr)
  else if s.writeRaces addr.toNat then .fault (.hostRace .write addr)
  else .next { s with mem := writeByte s.mem addr.toNat b }

/-- A HOST read of one data-memory byte (R37), which must exist and must not race (R52). -/
def hostMemRead (addr : Word) (s : State) : Host.Outcome State Fault Refusal :=
  if s.memSize ≤ addr.toNat then .fault (.noSuchAddress addr)
  else if s.readRaces addr.toNat then .fault (.hostRace .read addr)
  else .next (s.observe (.mem addr (readByte s.mem addr.toNat)))

/-- One HOST move. A window access of another width or at an unaligned offset is refused (R39). -/
def hostAccess (op : HostOp) (s : State) : Host.Outcome State Fault Refusal :=
  match op with
  | .regWrite bits off v =>
    if windowAccessWf bits off then .next (s.writeOffset off v) else .refused (.registerAccess bits off)
  | .regRead bits off =>
    if windowAccessWf bits off then .next (hostRegRead off s) else .refused (.registerAccess bits off)
  | .waitDone => .next (hostPoll s)
  | .memWrite addr b => hostMemWrite addr b s
  | .memRead addr => hostMemRead addr s
  | .reset => .next (resetInput s)

/-- The HOST's turn: its next access, or nothing when it has none to make (an idle machine keeps its state, R145). -/
def hostTurn (s : State) : Host.Outcome State Fault Refusal :=
  match s.script with
  | [] => .next s
  | op :: rest => hostAccess op { s with script := rest }

end Sys2Proof.Machine
end

