-- ==== Sys2Proof/Machine/Engine.lean ====
section
/-! DEFINITION. The ENGINE's turn and the choice of the next turn in the total order (60_exceptions.md R133, 20_memory.md
R50, 70_reset_and_hazards.md R157). -/
namespace Sys2Proof.Machine

/-- The completion step (R133): decode `PENDING` and run the command, or complete it as an IllegalCommand (R69). -/
def complete (s : State) : Host.Outcome State Fault Refusal :=
  match decode s.pendingWord with
  | .ok i => exec i s
  | .error _ => .next (illegalCommand s)

/-- The ENGINE's turn: its one step is enabled exactly when `BUSY = 1` (R133); otherwise the turn passes. -/
def engineTurn (s : State) : Host.Outcome State Fault Refusal :=
  if s.status.busy then complete s else .next s

/-- The next turn of the total order. The schedule says whose it is; when it is used up a command in flight completes
first, so that every command completes eventually (R157; assumption 2). -/
def nextTurn (s : State) : Host.Outcome State Fault Refusal :=
  match s.schedule with
  | .host :: rest => hostTurn { s with schedule := rest }
  | .engine :: rest => engineTurn { s with schedule := rest }
  | [] => if s.status.busy then engineTurn s else hostTurn s

/-- The command word `c` is launched and the ENGINE has the next turn. -/
def launchForEngine (c : Word) (s : State) : State :=
  { launch c s with schedule := .engine :: s.schedule }

end Sys2Proof.Machine
end

