-- ==== Sys2Proof/Machine/Step.lean ====
section
/-! DEFINITION. One step of IAW-CORE: one turn of the total order of 20_memory.md R50. -/
namespace Sys2Proof.Machine

/-- One HOST access or one completion step (R50). -/
def step (s : State) : Host.Outcome State Fault Refusal := nextTurn s

/-- The machine with the command word `w` (of `nbits` bits) launched, so that the next step is its completion: IAW-CORE
fetches nothing, and a command is "fetched" by the launch that latches it in `PENDING` (R14, R26, R67; assumption 3). -/
def State.withFetchWord (s : State) (nbits w : Nat) : State :=
  launchForEngine (BitVec.ofNat 32 (w % 2 ^ nbits)) s

end Sys2Proof.Machine
end

