-- ==== Sys2Proof/Machine/Script.lean ====
section
/-! DEFINITION. Host scripts (30_encoding.md R62-R66): the pseudo-instructions and their expansions, the encoding as
`(W|R, offset, value)` triples, the launch state of a run (70_reset_and_hazards.md R158), and the source's two
operations as scripts. -/
namespace Sys2Proof.Machine

/-- The offset a script's register reference means (R62, R64). -/
def RegRef.offset : RegRef → BitVec 8
  | .named r => r.offset
  | .raw off => off

/-- `<X>_ADDR` of a buffer name (R63). -/
def BufName.addrReg : BufName → Reg
  | .src => .srcAddr
  | .key => .keyAddr
  | .iv => .ivAddr

/-- `<X>_LEN` of a buffer name (R63). -/
def BufName.lenReg : BufName → Reg
  | .src => .srcLen
  | .key => .keyLen
  | .iv => .ivLen

/-- The encoding of a line after expanding it (R63, R64). `mem[...]` lines and comments are no operations (R62). -/
def ScriptLine.triples : ScriptLine → List Triple
  | .wr r v => [.w r.offset v]
  | .rd r stated => [.r r.offset stated]
  | .mem _ _ => []
  | .comment => []
  | .launch i => [.w Reg.cmd.offset (encode i)]
  | .wait => [.poll Reg.status.offset]
  | .run i => [.w Reg.cmd.offset (encode i), .poll Reg.status.offset]
  | .ack => [.w Reg.status.offset 0x00000002]
  | .clrovr => [.w Reg.status.offset 0x00000008]
  | .buf b addr len => [.w b.addrReg.offset addr, .w b.lenReg.offset len]
  | .dst addr => [.w Reg.dstAddr.offset addr]

/-- The encoding of a script (R64). -/
def scriptTriples (lines : List ScriptLine) : List Triple := lines.flatMap ScriptLine.triples

/-- The HOST access that a triple is: always one whole aligned register (R64, R38). -/
def Triple.hostOp : Triple → HostOp
  | .w off v => .regWrite 32 off v
  | .r off _ => .regRead 32 off
  | .poll _ => .waitDone

/-- The accesses of a script, in order. -/
def scriptOps (lines : List ScriptLine) : List HostOp := (scriptTriples lines).map Triple.hostOp

/-- The data memory that the `mem[...]` lines of a script state at its start (R62). DESIGN CHOICE (assumption 21): a line that
names bytes at or past `MEM_SIZE`, of which the spec does not speak, lists them as it lists the others. DESIGN CHOICE
(assumption 22): of two lines that name the same byte the later one gives it its value. -/
def scriptMemory : List ScriptLine → Memory → Memory
  | [], m => m
  | .mem addr bytes :: rest, m => scriptMemory rest (memWrite m addr.toNat bytes)
  | _ :: rest, m => scriptMemory rest m

/-- The launch state of a run (R158): the machine `s` with a script to run and the memory that the script states. It keeps
`State.MemoryInside` where every `mem[...]` line stays below `MEM_SIZE` (assumption 21). -/
def State.withScript (s : State) (lines : List ScriptLine) : State :=
  { s with script := scriptOps lines, mem := scriptMemory lines s.mem }

/-- Whether the HOST's reads, oldest first, are those that the reading triples of a script state (R62): a stated value
is the value read, and a poll ends with the read that shows `DONE` (R63). -/
def readsAgree (reading : List Triple) : List ReadResult → Bool
  | [] => reading.isEmpty
  | .mem _ _ :: rest => readsAgree reading rest
  | .reg off v :: rest =>
    match reading with
    | .r o stated :: ts => o == off && stated.all (· == v) && readsAgree ts rest
    | .poll o :: ts => o == off && (if v.getLsbD 1 then readsAgree ts rest else readsAgree (.poll o :: ts) rest)
    | _ => false

/-- Whether a triple reads. -/
def Triple.isRead : Triple → Bool
  | .w _ _ => false
  | .r _ _ => true
  | .poll _ => true

/-- The results that a script states are the results its HOST read (R62). -/
def State.statedResultsHold (s : State) (lines : List ScriptLine) : Bool :=
  readsAgree ((scriptTriples lines).filter Triple.isRead) s.reads.reverse

/-- `decrypt(ct, keyB64, ivB64)` as a script (R66). -/
def decryptCall (ctAddr ctLen keyAddr keyLen ivAddr ivLen outAddr : Word) : List ScriptLine :=
  [.buf .src ctAddr ctLen, .buf .key keyAddr keyLen, .buf .iv ivAddr ivLen, .dst outAddr, .run .decrypt]

/-- The result of `decrypt` (R66): the plaintext, or `(ERR_CODE, ERR_FIELD, ERR_EXP, ERR_ACT)`. -/
def State.decryptResult (s : State) : Except CmdError (List Byte) :=
  if s.status.err then
    .error { code := s.status.code, field := s.status.field, exp := s.errExp, act := s.errAct }
  else .ok (memRead s.mem s.dstAddr.toNat s.resLen.toNat)

/-- `classify(p)` as a script (R66). -/
def classifyCall (addr len : Word) : List ScriptLine := [.buf .src addr len, .run .classify]

/-- The result of `classify` (R66): `{tag, isValid, sizeBytes}`. -/
def State.classifyResult (s : State) : Tag × Bool × Word := (s.cls.tag, s.cls.valid, s.clsSize)

end Sys2Proof.Machine
end

