-- ==== Sys2Proof/Machine/ScriptText.lean ====
section
/-! DEFINITION. The text of a host script (30_encoding.md R62, R63, R65): the spellings of registers and commands, and the
reading of one line. Text is a list of characters. -/
namespace Sys2Proof.Machine

/-- The spelling of a register (R65, R15). -/
def Reg.spelling : Reg → String
  | .id => "ID"
  | .ctrl => "CTRL"
  | .status => "STATUS"
  | .cmd => "CMD"
  | .srcAddr => "SRC_ADDR"
  | .srcLen => "SRC_LEN"
  | .keyAddr => "KEY_ADDR"
  | .keyLen => "KEY_LEN"
  | .ivAddr => "IV_ADDR"
  | .ivLen => "IV_LEN"
  | .dstAddr => "DST_ADDR"
  | .resLen => "RES_LEN"
  | .errExp => "ERR_EXP"
  | .errAct => "ERR_ACT"
  | .cls => "CLS"
  | .clsSize => "CLS_SIZE"

/-- The four commands. -/
def commandList : List Instr := [.decrypt, .classify, .decryptClassify, .decryptRaw]

/-- The spelling of a command (R65, R58). -/
def commandSpelling : Instr → String
  | .decrypt => "DECRYPT"
  | .classify => "CLASSIFY"
  | .decryptClassify => "DECRYPT_CLASSIFY"
  | .decryptRaw => "DECRYPT_RAW"

/-- The value of a hexadecimal digit, of either case. -/
def hexDigit (c : Char) : Option Nat :=
  let n := c.toNat
  if 0x30 ≤ n ∧ n ≤ 0x39 then some (n - 0x30)
  else if 0x41 ≤ n ∧ n ≤ 0x46 then some (n - 0x41 + 10)
  else if 0x61 ≤ n ∧ n ≤ 0x66 then some (n - 0x61 + 10)
  else none

/-- Digits in a base, most significant first, onto the number read so far. -/
def readDigits (base acc : Nat) : List Char → Option Nat
  | [] => some acc
  | c :: cs =>
    match hexDigit c with
    | some d => if d < base then readDigits base (acc * base + d) cs else none
    | none => none

/-- A number, decimal or `0x` hex (R62). -/
def readNumber : List Char → Option Nat
  | [] => none
  | '0' :: 'x' :: c :: cs => readDigits 16 0 (c :: cs)
  | c :: cs => readDigits 10 0 (c :: cs)

/-- A 32-bit number (R62). -/
def readWord (t : List Char) : Option Word :=
  match readNumber t with
  | some n => if n < 2 ^ 32 then some (BitVec.ofNat 32 n) else none
  | none => none

/-- What follows a leading text, if a token starts with it. -/
def afterText : List Char → List Char → Option (List Char)
  | [], t => some t
  | c :: cs, d :: ds => if c = d then afterText cs ds else none
  | _ :: _, [] => none

/-- A register reference: a name of R15, or `REG+0x<off>` (R62). DESIGN CHOICE (assumption 16): the offset may also stand in
decimal, as R62 lets a value stand; R62 itself shows only the hexadecimal form. -/
def readReg (t : List Char) : Option RegRef :=
  match registerMap.find? (fun r => decide (r.spelling.toList = t)) with
  | some r => some (.named r)
  | none =>
    match afterText "REG+".toList t with
    | some o =>
      match readNumber o with
      | some n => if n < 0x100 then some (.raw (BitVec.ofNat 8 n)) else none
      | none => none
    | none => none

/-- A command by its spelling (R65). -/
def readCommand (t : List Char) : Option Instr :=
  commandList.find? (fun i => decide ((commandSpelling i).toList = t))

/-- A buffer of `buf` (R63). -/
def readBuf (t : List Char) : Option BufName :=
  if t = "SRC".toList then some .src
  else if t = "KEY".toList then some .key
  else if t = "IV".toList then some .iv
  else none

/-- Hex bytes, two digits each (R62), from digits without blanks. -/
def readHexBytes : List Char → Option (List Byte)
  | [] => some []
  | c :: d :: rest =>
    match hexDigit c, hexDigit d, readHexBytes rest with
    | some h, some l, some bs => some (BitVec.ofNat 8 (16 * h + l) :: bs)
    | _, _, _ => none
  | [_] => none

/-- The tokens of a line: separated by spaces, tabs and commas, and ended by a comment's `;`. DESIGN CHOICE (assumption 16):
R62 shows its lines by example and says no more of blanks and commas. -/
def tokensFrom (current : List Char) : List Char → List (List Char)
  | [] => if current.isEmpty then [] else [current.reverse]
  | c :: cs =>
    if c = ';' then (if current.isEmpty then [] else [current.reverse])
    else if c = ' ' ∨ c = '\t' ∨ c = ',' then
      (if current.isEmpty then tokensFrom [] cs else current.reverse :: tokensFrom [] cs)
    else tokensFrom (c :: current) cs

/-- The address in a token `mem[<addr>]` (R62). -/
def readMemAddress (t : List Char) : Option Word :=
  match afterText "mem[".toList t with
  | some rest =>
    match rest.reverse with
    | ']' :: digits => readWord digits.reverse
    | _ => none
  | none => none

/-- A line of one token. -/
def readLine1 (t : List Char) : Option ScriptLine :=
  if t = "wait".toList then some .wait
  else if t = "ack".toList then some .ack
  else if t = "clrovr".toList then some .clrovr
  else none

/-- A line of two tokens. -/
def readLine2 (t a : List Char) : Option ScriptLine :=
  if t = "rd".toList then (readReg a).map (fun r => .rd r none)
  else if t = "launch".toList then (readCommand a).map .launch
  else if t = "run".toList then (readCommand a).map .run
  else if t = "dst".toList then (readWord a).map .dst
  else none

/-- A line of three tokens that is no launch premise. -/
def readLine3 (t a b : List Char) : Option ScriptLine :=
  if t = "wr".toList then
    match readReg a, readWord b with
    | some r, some v => some (.wr r v)
    | _, _ => none
  else none

/-- A line of four tokens that is no launch premise. -/
def readLine4 (t a b c : List Char) : Option ScriptLine :=
  if t = "rd".toList ∧ b = "->".toList then
    match readReg a, readWord c with
    | some r, some v => some (.rd r (some v))
    | _, _ => none
  else if t = "buf".toList then
    match readBuf a, readWord b, readWord c with
    | some n, some addr, some len => some (.buf n addr len)
    | _, _, _ => none
  else none

/-- A launch premise `mem[<addr>] = <hex bytes>` (R62). DESIGN CHOICE (assumption 16): R62 does not say how the bytes are set
apart; the digits of all tokens are put together before they are paired, so `ff d8`, `ffd8` and `f fd 8` are the same two
bytes and `f f` is the one byte FF; with no digit at all the line states no byte. -/
def readMemLine (t : List Char) (rest : List (List Char)) : Option ScriptLine :=
  match readMemAddress t, rest with
  | some addr, eq :: bytes =>
    if eq = ['='] then (readHexBytes bytes.flatten).map (fun bs => .mem addr bs) else none
  | _, _ => none

/-- One line of a script (R62, R63); `none` where the text is no such line. -/
def readLine (text : List Char) : Option ScriptLine :=
  match tokensFrom [] text with
  | [] => some .comment
  | t :: rest =>
    match readMemLine t rest with
    | some l => some l
    | none =>
      match rest with
      | [] => readLine1 t
      | [a] => readLine2 t a
      | [a, b] => readLine3 t a b
      | [a, b, c] => readLine4 t a b c
      | _ => none

/-- A whole script, line by line. -/
def readScript : List (List Char) → Option (List ScriptLine)
  | [] => some []
  | l :: ls =>
    match readLine l, readScript ls with
    | some x, some xs => some (x :: xs)
    | _, _ => none

end Sys2Proof.Machine
end

