-- ==== Sys2Proof/Safety.lean ====
section
/-! DEFINITION. What the claims call a legal state and a finished run. -/
namespace Sys2Proof.Machine

/-- The result registers read 0 (R67). -/
def State.ResultsZero (s : State) : Prop :=
  s.resLen = 0 ∧ s.errExp = 0 ∧ s.errAct = 0 ∧ s.cls = Cls.zero ∧ s.clsSize = 0

/-- The legal combinations of `STATUS` (R20) and of the registers that go with them: while a command is in flight the
report fields and the result registers are 0 (R67) and `PENDING` has a value (R35); `ERR` and the code agree (R20), and
so do the tag and its validity flag (R125). -/
structure State.Legal (s : State) : Prop where
  busy_not_done : s.status.busy = true → s.status.done = false
  busy_not_err : s.status.busy = true → s.status.err = false
  no_err_no_field : s.status.err = false → s.status.field = .none
  busy_results : s.status.busy = true → s.ResultsZero
  busy_pending : s.status.busy = true → s.pending.isSome = true
  err_iff_code : s.status.err = true ↔ s.status.code ≠ .none
  cls_valid : s.cls.valid = (s.cls.tag != .unknown)

/-- The working copies of the key, the IV, the expanded key and the chaining block hold no value (R35, R133). -/
def State.Scrubbed (s : State) : Prop :=
  s.keyBuf = none ∧ s.ivBuf = none ∧ s.keySched = none ∧ s.prev = none

/-- Every listed cell is at an address that exists (R37). -/
def State.MemoryInside (s : State) : Prop := ∀ c ∈ s.mem, c.1 < s.memSize

/-- `STATUS` after a completion: `DONE` is set, `BUSY` cleared, `OVR` kept, and the report is the command's (R133-R135). -/
def Status.completed (ovr : Bool) (code : ErrCode) (field : ErrField) : Status :=
  { busy := false, done := true, err := code != .none, ovr := ovr, code := code, field := field }

/-- The state an early failure leaves (R78, R134): the report, and nothing else of the command; the data memory and the
results are as they were. -/
def State.failedWith (s : State) (code : ErrCode) (field : ErrField) (exp act : Word) : State :=
  { s with
    status := Status.completed s.status.ovr code field
    errExp := exp
    errAct := act
    keyBuf := none
    ivBuf := none
    keySched := none
    prev := none }

/-- Rows 1-4 of R71 pass. -/
structure State.TextsAccepted (s : State) : Prop where
  key_nonempty : s.keyLen ≠ 0
  iv_nonempty : s.ivLen ≠ 0
  src_nonempty : s.srcLen ≠ 0
  src_aligned : s.srcLen.toNat % 16 = 0

/-- Row 5 of R71 passes: the four regions end inside the data memory (R43, R44). -/
structure State.RegionsInside (s : State) : Prop where
  key_inside : s.keyAddr.toNat + s.keyLen.toNat ≤ s.memSize
  iv_inside : s.ivAddr.toNat + s.ivLen.toNat ≤ s.memSize
  src_inside : s.srcAddr.toNat + s.srcLen.toNat ≤ s.memSize
  dst_inside : s.dstAddr.toNat + s.srcLen.toNat ≤ s.memSize

/-- Row 6 of R71 passes: the destination lies apart from each of the (non-empty) input regions (R43, R45). -/
structure State.DestinationApart (s : State) : Prop where
  src_apart : s.srcAddr.toNat + s.srcLen.toNat ≤ s.dstAddr.toNat ∨ s.dstAddr.toNat + s.srcLen.toNat ≤ s.srcAddr.toNat
  key_apart : s.keyAddr.toNat + s.keyLen.toNat ≤ s.dstAddr.toNat ∨ s.dstAddr.toNat + s.srcLen.toNat ≤ s.keyAddr.toNat
  iv_apart : s.ivAddr.toNat + s.ivLen.toNat ≤ s.dstAddr.toNat ∨ s.dstAddr.toNat + s.srcLen.toNat ≤ s.ivAddr.toNat

/-- Rows 1-6 of R71 pass. -/
structure State.InputsAccepted (s : State) : Prop where
  texts : s.TextsAccepted
  inside : s.RegionsInside
  apart : s.DestinationApart

/-- The ciphertext of the command in flight (R27). -/
def State.ciphertext (s : State) : List Byte := memRead s.mem s.srcAddr.toNat s.srcLen.toNat

/-- The key text and the IV text decode to a 32-byte key and a 16-byte IV (rows 7-10 of R71). -/
def State.TextsDecodeTo (s : State) (key iv : List Byte) : Prop :=
  b64decode s.params.b64StrictTail (memRead s.mem s.keyAddr.toNat s.keyLen.toNat) = some key ∧
    b64decode s.params.b64StrictTail (memRead s.mem s.ivAddr.toNat s.ivLen.toNat) = some iv ∧
    key.length = 32 ∧ iv.length = 16

/-- The key and IV that the command `i` decrypts with are `key` and `iv`: rows 7-12 of R71 pass. CLASSIFY has none. -/
def State.DecryptsWith (s : State) (key iv : List Byte) : Instr → Prop
  | .decrypt => s.TextsDecodeTo key iv
  | .decryptClassify => s.TextsDecodeTo key iv
  | .decryptRaw =>
    s.keyLen.toNat = 32 ∧ s.ivLen.toNat = 16 ∧ key = memRead s.mem s.keyAddr.toNat 32 ∧ iv = memRead s.mem s.ivAddr.toNat 16
  | .classify => False

/-- A run is over when the script's last operation has happened and `BUSY = 0` (R158). -/
def State.Final (s : State) : Prop := s.script = [] ∧ s.status.busy = false

/-- What the HOST set up for a command: its word is launched, its operand registers are as they are (R70). -/
def State.SameOperands (s t : State) : Prop :=
  s.srcAddr = t.srcAddr ∧ s.srcLen = t.srcLen ∧ s.keyAddr = t.keyAddr ∧ s.keyLen = t.keyLen ∧
    s.ivAddr = t.ivAddr ∧ s.ivLen = t.ivLen ∧ s.dstAddr = t.dstAddr

/-- The registers a completion publishes its result in (R51). -/
def State.SameResults (s t : State) : Prop :=
  s.status = t.status ∧ s.resLen = t.resLen ∧ s.errExp = t.errExp ∧ s.errAct = t.errAct ∧
    s.cls = t.cls ∧ s.clsSize = t.clsSize

/-- Two states read the same at every byte of a region. -/
def State.SameBytes (s t : State) (r : Region) : Prop :=
  ∀ a, r.contains a = true → readByte s.mem a = readByte t.mem a

/-- Neither the HOST's set-up nor the model's own fields change (R46, R51: a completion writes only results, `STATUS` and
the destination). -/
def State.SameSetup (s t : State) : Prop :=
  s.params = t.params ∧ s.irqEn = t.irqEn ∧ s.SameOperands t ∧ s.pending = t.pending ∧ s.status.ovr = t.status.ovr ∧
    s.script = t.script ∧ s.schedule = t.schedule ∧ s.reads = t.reads

end Sys2Proof.Machine
end

