-- ==== Sys2Proof/Certificates/Slice0/Obligations.lean ====
section
/-! DEFINITION. The statements for the provers. Each docstring names the rule of spec/ it formalises, or says that it is
derived and from what. `exec i s` is the whole completion step of command `i` (60_exceptions.md R133). -/
open Sys2Proof Sys2Proof.Machine

/-! ### Encoding (30_encoding.md) -/

/-- Derived from R56 and R57: decoding the word (or the byte lanes) that `encode` gives for a well-formed command gives
the command back. -/
def Obligations.DecodeOfEncodeIsTheCommand : Prop :=
  ∀ i : Instr, i.wf = true → decode (encode i) = .ok i ∧ decodeLanes (lanesOfWord (encode i)) = .ok (i, [])

/-- R58: every bit of the word is checked, so a word decodes to a command exactly when it is that command's word of the
opcode map, and every other word of the 2^32 is rejected. -/
def Obligations.OnlyTheMappedWordsAreCommands : Prop :=
  (∀ (c : Word) (i : Instr), decode c = .ok i ↔
    (c = 0x00000001 ∧ i = .decrypt) ∨ (c = 0x00000002 ∧ i = .classify) ∨
    (c = 0x00000003 ∧ i = .decryptClassify) ∨ (c = 0x00000004 ∧ i = .decryptRaw)) ∧
  (∀ c : Word, (∀ i : Instr, c ≠ encode i) → ∃ e, decode c = .error e)

/-- Derived from R58 and R59: words written out from the opcode map and from the list of illegal encodings. -/
def Obligations.WordsOfTheOpcodeMap : Prop :=
  decode 0b00000000000000000000000000000001#32 = .ok .decrypt ∧
  decode 0b00000000000000000000000000000010#32 = .ok .classify ∧
  decode 0b00000000000000000000000000000011#32 = .ok .decryptClassify ∧
  decode 0b00000000000000000000000000000100#32 = .ok .decryptRaw ∧
  decode 0x00000000 = .error .unassignedOpcode ∧
  decode 0x00000005 = .error .unassignedOpcode ∧
  decode 0x0000000F = .error .unassignedOpcode ∧
  decode 0x00000011 = .error .reservedBits ∧
  decode 0x80000001 = .error .reservedBits

/-- Derived from R62-R64: the encoding of a script's lines, and the pseudo-instructions and their expansions. That `wait` is one HOST access, a
polling read of `STATUS` that stays at the head of the script until bit 1 reads 1, is the model's choice (assumption
17). -/
def Obligations.PseudoInstructionExpansions : Prop :=
  (∀ r v, (ScriptLine.wr r v).triples = [.w r.offset v]) ∧ (∀ r x, (ScriptLine.rd r x).triples = [.r r.offset x]) ∧
  (∀ r : Reg, (RegRef.named r).offset = r.offset) ∧ (∀ off, (RegRef.raw off).offset = off) ∧
  (∀ addr bytes, (ScriptLine.mem addr bytes).triples = []) ∧ ScriptLine.comment.triples = [] ∧
  (∀ off v, (Triple.w off v).hostOp = .regWrite 32 off v) ∧ (∀ off x, (Triple.r off x).hostOp = .regRead 32 off) ∧
  (∀ off, (Triple.poll off).hostOp = .waitDone) ∧
  (∀ i, (ScriptLine.launch i).triples = (ScriptLine.wr (.named .cmd) (encode i)).triples) ∧
  ScriptLine.wait.triples = [.poll Reg.status.offset] ∧
  (∀ s : State, hostAccess .waitDone s = .next
    (if s.status.word.getLsbD 1 then s.observe (.reg Reg.status.offset s.status.word)
     else { s.observe (.reg Reg.status.offset s.status.word) with script := .waitDone :: s.script })) ∧
  (∀ i, (ScriptLine.run i).triples = (ScriptLine.launch i).triples ++ ScriptLine.wait.triples) ∧
  ScriptLine.ack.triples = (ScriptLine.wr (.named .status) 0x00000002).triples ∧
  ScriptLine.clrovr.triples = (ScriptLine.wr (.named .status) 0x00000008).triples ∧
  (∀ a n, (ScriptLine.buf .src a n).triples =
    (ScriptLine.wr (.named .srcAddr) a).triples ++ (ScriptLine.wr (.named .srcLen) n).triples) ∧
  (∀ a n, (ScriptLine.buf .key a n).triples =
    (ScriptLine.wr (.named .keyAddr) a).triples ++ (ScriptLine.wr (.named .keyLen) n).triples) ∧
  (∀ a n, (ScriptLine.buf .iv a n).triples =
    (ScriptLine.wr (.named .ivAddr) a).triples ++ (ScriptLine.wr (.named .ivLen) n).triples) ∧
  (∀ a, (ScriptLine.dst a).triples = (ScriptLine.wr (.named .dstAddr) a).triples)

/-! ### The register window (10_state.md, 20_memory.md) -/

/-- R67: the launch, field by field; `OVR`, the operand registers, the data memory and everything else keep their values. -/
def Obligations.LaunchLatchesTheWord : Prop :=
  ∀ (s : State) (c : Word), s.status.busy = false →
    hostAccess (.regWrite 32 Reg.cmd.offset c) s = .next
      { s with
        pending := some c
        status := { busy := true, done := false, err := false, ovr := s.status.ovr, code := .none, field := .none }
        resLen := 0
        errExp := 0
        errAct := 0
        cls := { tag := .unknown, valid := false }
        clsSize := 0 }

/-- R68: while a command is in flight a write to `CMD` or to an operand register only sets `OVR`; writes to `CTRL` and
`STATUS` act as usual. The usual effect of a `CTRL` write (R16, R19) is said of every state, busy or idle: it takes bit 0
as `IRQ_EN` and changes nothing else. -/
def Obligations.WritesWhileBusyOnlySetOverrun : Prop :=
  ∀ (s : State) (r : Reg) (v : Word),
    (s.status.busy = true → r ∈ [Reg.cmd, .srcAddr, .srcLen, .keyAddr, .keyLen, .ivAddr, .ivLen, .dstAddr] →
      hostAccess (.regWrite 32 r.offset v) s = .next { s with status := { s.status with ovr := true } }) ∧
    hostAccess (.regWrite 32 Reg.ctrl.offset v) s = .next { s with irqEn := v.getLsbD 0 } ∧
    (s.status.busy = true → hostAccess (.regWrite 32 Reg.status.offset v) s = .next
      { s with status := { s.status with
          done := s.status.done && !v.getLsbD 1
          ovr := s.status.ovr && !v.getLsbD 3 } })

/-- Derived from R15, R16 and R27-R30: while no command is in flight, a write of an operand register stores all 32 bits,
which a read then returns, and every other register, the data memory and the rest of the state keep their values; and a
write at each of the seven offsets that R15 gives sets the field of that name. -/
def Obligations.IdleOperandWriteReadsBack : Prop :=
  ∀ (s : State) (r : Reg) (v : Word), s.status.busy = false →
    r ∈ [Reg.srcAddr, .srcLen, .keyAddr, .keyLen, .ivAddr, .ivLen, .dstAddr] →
    ∃ t, hostAccess (.regWrite 32 r.offset v) s = .next t ∧
      hostAccess (.regRead 32 r.offset) t = .next { t with reads := .reg r.offset v :: t.reads } ∧
      (∀ q : Reg, q ≠ r → t.regWord q = s.regWord q) ∧
      t.mem = s.mem ∧ t.pending = s.pending ∧ t.keyBuf = s.keyBuf ∧ t.ivBuf = s.ivBuf ∧ t.keySched = s.keySched ∧
      t.prev = s.prev ∧ t.status = s.status ∧ t.irqEn = s.irqEn ∧ t.cls = s.cls ∧ t.params = s.params ∧
      t.draws = s.draws ∧ t.script = s.script ∧ t.schedule = s.schedule ∧ t.reads = s.reads ∧
      hostAccess (.regWrite 32 0x10 v) s = .next { s with srcAddr := v } ∧
      hostAccess (.regWrite 32 0x14 v) s = .next { s with srcLen := v } ∧
      hostAccess (.regWrite 32 0x18 v) s = .next { s with keyAddr := v } ∧
      hostAccess (.regWrite 32 0x1C v) s = .next { s with keyLen := v } ∧
      hostAccess (.regWrite 32 0x20 v) s = .next { s with ivAddr := v } ∧
      hostAccess (.regWrite 32 0x24 v) s = .next { s with ivLen := v } ∧
      hostAccess (.regWrite 32 0x28 v) s = .next { s with dstAddr := v }

/-- Derived from R16, R20, R22-R24: in every state, a write of `STATUS` clears `DONE` where bit 1 is set and `OVR` where bit
3 is set, and changes nothing else of the machine: this is the whole next state. -/
def Obligations.StatusWriteClearsOnlyDoneAndOverrun : Prop :=
  ∀ (s : State) (v : Word), ∃ t, hostAccess (.regWrite 32 Reg.status.offset v) s = .next t ∧
    t = { s with status := { s.status with done := t.status.done, ovr := t.status.ovr } } ∧
    (t.status.done = true ↔ s.status.done = true ∧ v.getLsbD 1 = false) ∧
    (t.status.ovr = true ↔ s.status.ovr = true ∧ v.getLsbD 3 = false) ∧
    (∀ q : Reg, q ≠ .status → t.regWord q = s.regWord q)

/-- R17: reserved offsets read 0 and ignore writes; reserved bits of `ID`, `CTRL`, `STATUS` and `CLS` read 0, and what is
written to them has no effect. -/
def Obligations.ReservedSpaceReadsZeroAndIgnoresWrites : Prop :=
  (∀ (s : State) (off : BitVec 8) (v : Word), 0x40 ≤ off.toNat → off.toNat % 4 = 0 →
    hostAccess (.regRead 32 off) s = .next { s with reads := .reg off 0 :: s.reads } ∧
    hostAccess (.regWrite 32 off v) s = .next s) ∧
  (∀ (s : State) (k : Nat), 24 ≤ k → (s.regWord .id).getLsbD k = false) ∧
  (∀ (s : State) (k : Nat), 1 ≤ k → (s.regWord .ctrl).getLsbD k = false) ∧
  (∀ (s : State) (k : Nat), 4 ≤ k ∧ k ≤ 7 ∨ 15 ≤ k → (s.regWord .status).getLsbD k = false) ∧
  (∀ (s : State) (k : Nat), 4 ≤ k → (s.regWord .cls).getLsbD k = false) ∧
  (∀ (s : State) (v v' : Word), v.getLsbD 0 = v'.getLsbD 0 →
    hostAccess (.regWrite 32 Reg.ctrl.offset v) s = hostAccess (.regWrite 32 Reg.ctrl.offset v') s) ∧
  (∀ (s : State) (v v' : Word), v.getLsbD 1 = v'.getLsbD 1 → v.getLsbD 3 = v'.getLsbD 3 →
    hostAccess (.regWrite 32 Reg.status.offset v) s = hostAccess (.regWrite 32 Reg.status.offset v') s) ∧
  (∀ (s : State) (v : Word), hostAccess (.regWrite 32 Reg.id.offset v) s = .next s ∧
    hostAccess (.regWrite 32 Reg.cls.offset v) s = .next s)

/-- Derived from R15, R16, R26-R34: the sixteen offsets; which field of the machine each register is; and that a write of a
read-only register has no effect, and a read returns the register (0 for `CMD`) and has no side effect on any register or
on the data memory. -/
def Obligations.ReadOnlyWritesAndReadsHaveNoEffect : Prop :=
  (∀ (s : State) (r : Reg) (v : Word),
    (r ∈ [Reg.id, .resLen, .errExp, .errAct, .cls, .clsSize] → hostAccess (.regWrite 32 r.offset v) s = .next s) ∧
    hostAccess (.regRead 32 r.offset) s = .next { s with reads := .reg r.offset (s.regWord r) :: s.reads } ∧
    s.regWord .cmd = 0) ∧
  (Reg.id.offset = 0x00 ∧ Reg.ctrl.offset = 0x04 ∧ Reg.status.offset = 0x08 ∧ Reg.cmd.offset = 0x0C ∧
    Reg.srcAddr.offset = 0x10 ∧ Reg.srcLen.offset = 0x14 ∧ Reg.keyAddr.offset = 0x18 ∧ Reg.keyLen.offset = 0x1C ∧
    Reg.ivAddr.offset = 0x20 ∧ Reg.ivLen.offset = 0x24 ∧ Reg.dstAddr.offset = 0x28 ∧ Reg.resLen.offset = 0x2C ∧
    Reg.errExp.offset = 0x30 ∧ Reg.errAct.offset = 0x34 ∧ Reg.cls.offset = 0x38 ∧ Reg.clsSize.offset = 0x3C) ∧
  (∀ s : State, s.regWord .srcAddr = s.srcAddr ∧ s.regWord .srcLen = s.srcLen ∧ s.regWord .keyAddr = s.keyAddr ∧
    s.regWord .keyLen = s.keyLen ∧ s.regWord .ivAddr = s.ivAddr ∧ s.regWord .ivLen = s.ivLen ∧
    s.regWord .dstAddr = s.dstAddr ∧ s.regWord .resLen = s.resLen ∧ s.regWord .errExp = s.errExp ∧
    s.regWord .errAct = s.errAct ∧ s.regWord .clsSize = s.clsSize ∧ s.regWord .ctrl = (if s.irqEn then 1 else 0))

/-- R39: a register-window access of a width other than 32 bits, or at an offset that is not a multiple of 4, is refused. -/
def Obligations.MalformedRegisterAccessIsRefused : Prop :=
  ∀ (s : State) (bits : Nat) (off : BitVec 8) (v : Word), bits ≠ 32 ∨ off.toNat % 4 ≠ 0 →
    hostAccess (.regWrite bits off v) s = .refused (.registerAccess bits off) ∧
    hostAccess (.regRead bits off) s = .refused (.registerAccess bits off)

/-- R25 and R124: where `ERR_CODE` and `ERR_FIELD` stand in `STATUS`, and that only the codes 0 to 11 and the fields 0 to 4,
with the meanings 0 none, 1 key, 2 IV, 3 source, 4 destination, are ever read there; and the tag codes of `CLS`, of which
only 0 to 5 are ever read. With it, derived from R129, the number of each error's name; from R20, the places of `BUSY`,
`DONE`, `ERR` and `OVR`; and from R33, those of `TAG` and `VALID`. -/
def Obligations.ErrorCodeAndFieldRanges : Prop :=
  (∀ s : State,
    ((s.regWord .status).extractLsb' 8 4).toNat = s.status.code.num ∧ s.status.code.num ≤ 11 ∧
    ((s.regWord .status).extractLsb' 12 3).toNat = s.status.field.num ∧ s.status.field.num ≤ 4 ∧
    (s.status.field.num = 0 ↔ s.status.field = .none) ∧ (s.status.field.num = 1 ↔ s.status.field = .key) ∧
    (s.status.field.num = 2 ↔ s.status.field = .iv) ∧ (s.status.field.num = 3 ↔ s.status.field = .src) ∧
    (s.status.field.num = 4 ↔ s.status.field = .dst) ∧
    (s.regWord .status).getLsbD 0 = s.status.busy ∧ (s.regWord .status).getLsbD 1 = s.status.done ∧
    (s.regWord .status).getLsbD 2 = s.status.err ∧ (s.regWord .status).getLsbD 3 = s.status.ovr ∧
    ((s.regWord .cls).extractLsb' 0 3).toNat = s.cls.tag.num ∧ s.cls.tag.num ≤ 5 ∧
    (s.regWord .cls).getLsbD 3 = s.cls.valid) ∧
  (ErrCode.none.num = 0 ∧ ErrCode.emptyInput.num = 1 ∧ ErrCode.unalignedCiphertext.num = 2 ∧
    ErrCode.base64DecodeFailure.num = 3 ∧ ErrCode.keyLengthMismatch.num = 4 ∧ ErrCode.ivLengthMismatch.num = 5 ∧
    ErrCode.cipherInitFailure.num = 6 ∧ ErrCode.paddingValidationFailure.num = 7 ∧
    ErrCode.emptyPlaintextAfterUnpad.num = 8 ∧ ErrCode.illegalCommand.num = 9 ∧ ErrCode.busError.num = 10 ∧
    ErrCode.bufferOverlap.num = 11) ∧
  (Tag.unknown.num = 0 ∧ Tag.jpeg.num = 1 ∧ Tag.png.num = 2 ∧ Tag.gif.num = 3 ∧ Tag.webp.num = 4 ∧ Tag.bmp.num = 5)

/-- R137 and R138: `irq` is `DONE and IRQ_EN`; it drops when `DONE` is cleared (write of `STATUS`, launch, reset) or when
`IRQ_EN` is written 0, rises at once when `IRQ_EN` is written 1 while `DONE` is 1, and every completion, of success and
failure alike, raises it when enabled. -/
def Obligations.InterruptFollowsDoneAndEnable : Prop :=
  (∀ s : State, s.irq = ((s.regWord .status).getLsbD 1 && (s.regWord .ctrl).getLsbD 0)) ∧
  (∀ (s t : State) (v : Word), v.getLsbD 1 = true →
    hostAccess (.regWrite 32 Reg.status.offset v) s = .next t → t.irq = false) ∧
  (∀ (s t : State) (c : Word), s.status.busy = false →
    hostAccess (.regWrite 32 Reg.cmd.offset c) s = .next t → t.irq = false) ∧
  (∀ s t : State, hostAccess .reset s = .next t → t.irq = false) ∧
  (∀ (s t : State) (v : Word), hostAccess (.regWrite 32 Reg.ctrl.offset v) s = .next t →
    t.irq = (s.status.done && v.getLsbD 0)) ∧
  (∀ s t : State, s.status.busy = true → engineTurn s = .next t → t.irq = s.irqEn)

/-- R52: while a command is in flight, a HOST write of a byte of the source (for a decrypt command also of the key and the
IV), and a HOST read or write of a byte of a decrypt command's destination, is the fault `HostRace`; every other access
to a byte that exists goes on. -/
def Obligations.TouchingAFlightRegionIsHostRace : Prop :=
  ∀ (s : State) (i : Instr) (addr : Word) (b : Byte), s.status.busy = true → decode s.pendingWord = .ok i →
    addr.toNat < s.memSize →
    (s.srcRegion.contains addr.toNat = true ∨
        i ≠ .classify ∧ (s.keyRegion.contains addr.toNat = true ∨ s.ivRegion.contains addr.toNat = true ∨
          s.dstRegion.contains addr.toNat = true) →
      hostAccess (.memWrite addr b) s = .fault (.hostRace .write addr)) ∧
    (¬(s.srcRegion.contains addr.toNat = true ∨
        i ≠ .classify ∧ (s.keyRegion.contains addr.toNat = true ∨ s.ivRegion.contains addr.toNat = true ∨
          s.dstRegion.contains addr.toNat = true)) →
      hostAccess (.memWrite addr b) s = .next { s with mem := writeByte s.mem addr.toNat b }) ∧
    (i ≠ .classify ∧ s.dstRegion.contains addr.toNat = true →
      hostAccess (.memRead addr) s = .fault (.hostRace .read addr)) ∧
    (¬(i ≠ .classify ∧ s.dstRegion.contains addr.toNat = true) →
      hostAccess (.memRead addr) s = .next { s with reads := .mem addr (readByte s.mem addr.toNat) :: s.reads })

/-- Derived from R37, R41, R50, R51: with no command in flight the HOST's read of an existing byte returns what the data
memory holds there, whoever wrote it, and changes nothing; its write of an existing byte is what its later reads of that byte
return, and no other byte and no register changes. That the same holds while an illegal word is in flight, which
has no region to protect, is the model's choice (assumption 10), and so is the fault at an address past `MEM_SIZE`
(assumption 11). -/
def Obligations.HostMemoryAccess : Prop :=
  ∀ (s : State) (addr : Word) (b : Byte), s.status.busy = false ∨ (∃ e, decode s.pendingWord = .error e) →
    (addr.toNat < s.memSize →
      hostAccess (.memRead addr) s = .next { s with reads := .mem addr (readByte s.mem addr.toNat) :: s.reads }) ∧
    (addr.toNat < s.memSize → ∃ t, hostAccess (.memWrite addr b) s = .next t ∧
      hostAccess (.memRead addr) t = .next { t with reads := .mem addr b :: t.reads } ∧
      (∀ a, a ≠ addr.toNat → readByte t.mem a = readByte s.mem a) ∧ (∀ q : Reg, t.regWord q = s.regWord q) ∧
      t.pending = s.pending) ∧
    (s.memSize ≤ addr.toNat → hostAccess (.memWrite addr b) s = .fault (.noSuchAddress addr) ∧
      hostAccess (.memRead addr) s = .fault (.noSuchAddress addr))

/-! ### Reset (70_reset_and_hazards.md) -/

/-- R146: after reset every register but `ID` reads 0, `ID` keeps its value, the hidden state holds no value and `irq` is
low; the machine right after power-on is in that state too. -/
def Obligations.ResetClearsEveryRegister : Prop :=
  (∀ s : State, ∃ t, hostAccess .reset s = .next t ∧ t.regWord .id = s.regWord .id ∧
    (∀ r : Reg, r ≠ .id → t.regWord r = 0) ∧ t.pending = none ∧ t.Scrubbed ∧ t.irq = false) ∧
  (State.reset.regWord .id = 0x00010000#32 ||| (Config.idVersion.setWidth 32) ∧
    (∀ r : Reg, r ≠ .id → State.reset.regWord r = 0) ∧ State.reset.pending = none ∧ State.reset.Scrubbed ∧
    State.reset.irq = false)

/-- R147: reset during a command abandons it: nothing is published, and no byte of the data memory changes outside the
destination region of a decrypt command in flight; without one (idle, CLASSIFY, an illegal word) no byte changes at all.
What the destination then holds is a draw, so nothing is said of it. -/
def Obligations.ResetAbandonsTheCommand : Prop :=
  ∀ s t : State, hostAccess .reset s = .next t →
    t.status.busy = false ∧ t.status.done = false ∧ t.status.err = false ∧ t.ResultsZero ∧
    (∀ a, ¬(s.status.busy = true ∧ (∃ i, decode s.pendingWord = .ok i ∧ i ≠ .classify) ∧ s.dstRegion.contains a = true) →
      readByte t.mem a = readByte s.mem a) ∧
    (s.status.busy = false ∨ decode s.pendingWord = .ok .classify ∨ (∃ e, decode s.pendingWord = .error e) →
      t.mem = s.mem)

/-! ### Steps (60_exceptions.md R133, 20_memory.md R50) -/

/-- Derived from R69, R133 and, for whose turn it is, assumption 2: on the ENGINE's turn with a command in flight, a step
is `exec` of the decoded command, the schedule's head consumed; with an illegal word in flight it is the report of
IllegalCommand and nothing else; and a word placed by `withFetchWord` is the very next one to complete, on the launched
state. -/
def Obligations.StepRunsTheDecodedCommand : Prop :=
  (∀ (s : State) (i : Instr), s.status.busy = true → decode s.pendingWord = .ok i →
    (s.schedule = [] → step s = exec i s) ∧
    (∀ rest, s.schedule = .engine :: rest → step s = exec i { s with schedule := rest })) ∧
  (∀ (s : State) (c : Word) (e : Illegal), s.status.busy = true → s.pending = some c → decode c = .error e →
    (s.schedule = [] → step s = .next (s.failedWith .illegalCommand .none 0 c)) ∧
    (∀ rest, s.schedule = .engine :: rest →
      step s = .next (State.failedWith { s with schedule := rest } .illegalCommand .none 0 c))) ∧
  (∀ (s : State) (i : Instr), step (s.withFetchWord 32 (encode i).toNat) = exec i (launch (encode i) s)) ∧
  (∀ (s : State) (c : Word) (e : Illegal), decode c = .error e →
    step (s.withFetchWord 32 c.toNat) = .next ((launch c s).failedWith .illegalCommand .none 0 c))

/-- Derived from R38, R50 and, for whose turn it is, assumption 2: on the HOST's turn a step is the HOST's next access,
and with no access left, or on the ENGINE's turn with no command in flight, nothing happens. -/
def Obligations.StepRunsTheHostAccess : Prop :=
  ∀ (s : State) (op : HostOp) (ops : List HostOp) (rest : List Agent),
    (s.schedule = .host :: rest → s.script = op :: ops → step s = hostAccess op { s with schedule := rest, script := ops }) ∧
    (s.schedule = [] → s.status.busy = false → s.script = op :: ops → step s = hostAccess op { s with script := ops }) ∧
    (s.schedule = .host :: rest → s.script = [] → step s = .next { s with schedule := rest }) ∧
    (s.schedule = .engine :: rest → s.status.busy = false → step s = .next { s with schedule := rest }) ∧
    (s.schedule = [] → s.status.busy = false → s.script = [] → step s = .next s)

/-- Derived from R133 and R69: the ENGINE's step is enabled exactly when `BUSY = 1`; it always completes, with `BUSY` cleared, `DONE` set and
the working copies without a value. -/
def Obligations.CompletionEndsEveryCommand : Prop :=
  (∀ s : State, s.status.busy = false → engineTurn s = .next s) ∧
  (∀ (s : State) (i : Instr), s.status.busy = true → decode s.pendingWord = .ok i → engineTurn s = exec i s) ∧
  (∀ s : State, s.status.busy = true → ∃ t, engineTurn s = .next t ∧
    t.status.busy = false ∧ t.status.done = true ∧ t.Scrubbed) ∧
  (∀ (i : Instr) (s : State), ∃ t, exec i s = .next t ∧ t.status.busy = false ∧ t.status.done = true ∧ t.Scrubbed)

/-- R59: every word outside the opcode map is launched like a command, and its completion reports IllegalCommand with
field 0, `ERR_EXP = 0` and `ERR_ACT` the word; the results are 0, and the operand registers, `CTRL`, `OVR`, the data memory
and everything else keep their values: this is the whole next state. -/
def Obligations.IllegalWordsReportIllegalCommand : Prop :=
  ∀ (s : State) (c : Word), c.extractLsb' 4 28 ≠ 0 ∨ (c.extractLsb' 0 4 : BitVec 4) = 0 ∨ 5 ≤ (c.extractLsb' 0 4).toNat →
    s.status.busy = false →
    ∃ t, hostAccess (.regWrite 32 Reg.cmd.offset c) s = .next t ∧ t.status.busy = true ∧
      engineTurn t = .next
        { s with
          pending := some c
          status := { busy := false, done := true, err := true, ovr := s.status.ovr, code := .illegalCommand, field := .none }
          errExp := 0
          errAct := c
          resLen := 0
          cls := Cls.zero
          clsSize := 0
          keyBuf := none
          ivBuf := none
          keySched := none
          prev := none }

/-! ### The commands: where they complete -/

/-- Derived from the success path of R73 and from R31: DECRYPT of accepted inputs whose texts decode to a 32-byte key and a 16-byte IV and whose decrypted buffer is
validly padded completes with `STATUS` without an error, the full buffer at the destination and `RES_LEN` the plaintext's
length, which is `SRC_LEN` less the buffer's final byte. -/
def Obligations.DecryptPublishesThePlaintext : Prop :=
  ∀ (s : State) (key iv r : List Byte), s.Legal → s.status.busy = true → s.InputsAccepted → s.TextsDecodeTo key iv →
    pkcs7Unpad (cbcDecrypt s.ciphertext key iv) = .plaintext r →
    exec .decrypt s = .next
      { s with
        status := Status.completed s.status.ovr .none .none
        resLen := BitVec.ofNat 32 r.length
        mem := memWrite s.mem s.dstAddr.toNat (cbcDecrypt s.ciphertext key iv)
        keyBuf := none
        ivBuf := none
        keySched := none
        prev := none } ∧
    (cbcDecrypt s.ciphertext key iv).length = s.srcLen.toNat ∧
    r.length + ((cbcDecrypt s.ciphertext key iv).getD (s.srcLen.toNat - 1) 0).toNat = s.srcLen.toNat

/-- Derived from the success path of R74: DECRYPT_CLASSIFY completes where DECRYPT does, with the same memory and `RES_LEN`, and publishes in addition the
sniffed tag of the plaintext, its validity flag and its length. -/
def Obligations.DecryptClassifyPublishesPlaintextAndTag : Prop :=
  ∀ (s : State) (key iv r : List Byte), s.Legal → s.status.busy = true → s.InputsAccepted → s.TextsDecodeTo key iv →
    pkcs7Unpad (cbcDecrypt s.ciphertext key iv) = .plaintext r →
    exec .decryptClassify s = .next
      { s with
        status := Status.completed s.status.ovr .none .none
        resLen := BitVec.ofNat 32 r.length
        cls := { tag := sniff r, valid := decide (sniff r ≠ .unknown) }
        clsSize := BitVec.ofNat 32 r.length
        mem := memWrite s.mem s.dstAddr.toNat (cbcDecrypt s.ciphertext key iv)
        keyBuf := none
        ivBuf := none
        keySched := none
        prev := none }

/-- Derived from the success path of R75: DECRYPT_RAW of accepted inputs with a 32-byte key and a 16-byte IV taken as they stand in memory completes as
DECRYPT does. -/
def Obligations.DecryptRawPublishesThePlaintext : Prop :=
  ∀ (s : State) (r : List Byte), s.Legal → s.status.busy = true → s.InputsAccepted → s.keyLen = 32 → s.ivLen = 16 →
    pkcs7Unpad (cbcDecrypt s.ciphertext (memRead s.mem s.keyAddr.toNat 32) (memRead s.mem s.ivAddr.toNat 16)) =
      .plaintext r →
    exec .decryptRaw s = .next
      { s with
        status := Status.completed s.status.ovr .none .none
        resLen := BitVec.ofNat 32 r.length
        mem := memWrite s.mem s.dstAddr.toNat
          (cbcDecrypt s.ciphertext (memRead s.mem s.keyAddr.toNat 32) (memRead s.mem s.ivAddr.toNat 16))
        keyBuf := none
        ivBuf := none
        keySched := none
        prev := none }

/-- R123: CLASSIFY of an empty region anywhere, or of a region inside the data memory, completes without an error with
the sniffed tag, its validity flag and `SRC_LEN`; past the end of memory it completes with BusError(SRC, 0, `SRC_ADDR`).
No memory is written, and `RES_LEN` keeps the 0 of the launch. -/
def Obligations.ClassifyPublishesTheTag : Prop :=
  ∀ s : State, s.Legal → s.status.busy = true →
    (s.srcLen = 0 ∨ s.srcAddr.toNat + s.srcLen.toNat ≤ s.memSize →
      exec .classify s = .next
        { s with
          status := Status.completed s.status.ovr .none .none
          cls := { tag := sniff s.ciphertext, valid := decide (sniff s.ciphertext ≠ .unknown) }
          clsSize := s.srcLen
          keyBuf := none
          ivBuf := none
          keySched := none
          prev := none }) ∧
    (s.srcLen ≠ 0 ∧ s.memSize < s.srcAddr.toNat + s.srcLen.toNat →
      exec .classify s = .next (s.failedWith .busError .src 0 s.srcAddr))

/-! ### The commands: the order of checks (40_decrypt.md R71) -/

/-- R72: the Input Validator of the three decrypt commands, in its order; inputs that pass it are never reported as its
errors. -/
def Obligations.InputValidatorOrder : Prop :=
  ∀ (s : State) (i : Instr), i ≠ .classify →
    (s.keyLen = 0 → exec i s = .next (s.failedWith .emptyInput .key 0 0)) ∧
    (s.keyLen ≠ 0 → s.ivLen = 0 → exec i s = .next (s.failedWith .emptyInput .iv 0 0)) ∧
    (s.keyLen ≠ 0 → s.ivLen ≠ 0 → s.srcLen = 0 → exec i s = .next (s.failedWith .emptyInput .src 0 0)) ∧
    (s.keyLen ≠ 0 → s.ivLen ≠ 0 → s.srcLen ≠ 0 → s.srcLen.toNat % 16 ≠ 0 →
      exec i s = .next (s.failedWith .unalignedCiphertext .src 16 s.srcLen)) ∧
    (s.TextsAccepted → s.status.code = .none →
      ∃ t, exec i s = .next t ∧ t.status.code ≠ .emptyInput ∧ t.status.code ≠ .unalignedCiphertext)

/-- Derived from R43, R44 and row 5 of R71: after the Input Validator, the first of KEY, IV, SRC, DST that runs past the
end of memory, without wrap-around, is reported as BusError with its address register; and which bytes the four regions
are. -/
def Obligations.FirstRegionPastMemoryIsBusError : Prop :=
  ∀ (s : State) (i : Instr), i ≠ .classify → s.TextsAccepted →
    (s.memSize < s.keyAddr.toNat + s.keyLen.toNat → exec i s = .next (s.failedWith .busError .key 0 s.keyAddr)) ∧
    (s.keyAddr.toNat + s.keyLen.toNat ≤ s.memSize → s.memSize < s.ivAddr.toNat + s.ivLen.toNat →
      exec i s = .next (s.failedWith .busError .iv 0 s.ivAddr)) ∧
    (s.keyAddr.toNat + s.keyLen.toNat ≤ s.memSize → s.ivAddr.toNat + s.ivLen.toNat ≤ s.memSize →
      s.memSize < s.srcAddr.toNat + s.srcLen.toNat → exec i s = .next (s.failedWith .busError .src 0 s.srcAddr)) ∧
    (s.keyAddr.toNat + s.keyLen.toNat ≤ s.memSize → s.ivAddr.toNat + s.ivLen.toNat ≤ s.memSize →
      s.srcAddr.toNat + s.srcLen.toNat ≤ s.memSize → s.memSize < s.dstAddr.toNat + s.srcLen.toNat →
      exec i s = .next (s.failedWith .busError .dst 0 s.dstAddr)) ∧
    (∀ a, (s.keyRegion.contains a = true ↔ s.keyAddr.toNat ≤ a ∧ a < s.keyAddr.toNat + s.keyLen.toNat) ∧
      (s.ivRegion.contains a = true ↔ s.ivAddr.toNat ≤ a ∧ a < s.ivAddr.toNat + s.ivLen.toNat) ∧
      (s.srcRegion.contains a = true ↔ s.srcAddr.toNat ≤ a ∧ a < s.srcAddr.toNat + s.srcLen.toNat) ∧
      (s.dstRegion.contains a = true ↔ s.dstAddr.toNat ≤ a ∧ a < s.dstAddr.toNat + s.srcLen.toNat))

/-- R45 (row 6 of R71): after the region checks, the first of SRC, KEY, IV that shares a byte with the destination is
reported as BufferOverlap; adjacent regions, and inputs that overlap each other, are no overlap. -/
def Obligations.FirstOverlapIsBufferOverlap : Prop :=
  ∀ (s : State) (i : Instr), i ≠ .classify → s.TextsAccepted → s.RegionsInside →
    ((∃ a, s.srcRegion.contains a = true ∧ s.dstRegion.contains a = true) →
      exec i s = .next (s.failedWith .bufferOverlap .src 0 0)) ∧
    ((∀ a, ¬(s.srcRegion.contains a = true ∧ s.dstRegion.contains a = true)) →
      ((∃ a, s.keyRegion.contains a = true ∧ s.dstRegion.contains a = true) →
        exec i s = .next (s.failedWith .bufferOverlap .key 0 0)) ∧
      ((∀ a, ¬(s.keyRegion.contains a = true ∧ s.dstRegion.contains a = true)) →
        ((∃ a, s.ivRegion.contains a = true ∧ s.dstRegion.contains a = true) →
          exec i s = .next (s.failedWith .bufferOverlap .iv 0 0)) ∧
        ((∀ a, ¬(s.ivRegion.contains a = true ∧ s.dstRegion.contains a = true)) → s.InputsAccepted)))

/-- R93 (rows 7-10 of R71): DECRYPT and DECRYPT_CLASSIFY decode the key text, then the IV text, and only then check the
lengths, the key's first. -/
def Obligations.TextFailuresInOrder : Prop :=
  ∀ (s : State) (i : Instr), i = .decrypt ∨ i = .decryptClassify → s.InputsAccepted →
    (b64decode s.params.b64StrictTail (memRead s.mem s.keyAddr.toNat s.keyLen.toNat) = none →
      exec i s = .next (s.failedWith .base64DecodeFailure .key 0 0)) ∧
    (∀ key, b64decode s.params.b64StrictTail (memRead s.mem s.keyAddr.toNat s.keyLen.toNat) = some key →
      (b64decode s.params.b64StrictTail (memRead s.mem s.ivAddr.toNat s.ivLen.toNat) = none →
        exec i s = .next (s.failedWith .base64DecodeFailure .iv 0 0)) ∧
      (∀ iv, b64decode s.params.b64StrictTail (memRead s.mem s.ivAddr.toNat s.ivLen.toNat) = some iv →
        (key.length ≠ 32 → exec i s = .next (s.failedWith .keyLengthMismatch .key 32 (BitVec.ofNat 32 key.length))) ∧
        (key.length = 32 → iv.length ≠ 16 →
          exec i s = .next (s.failedWith .ivLengthMismatch .iv 16 (BitVec.ofNat 32 iv.length)))))

/-- Derived from R109 (rows 11 and 12 of R71) and R76: the cipher's initialisation check of DECRYPT_RAW fails exactly on a wrong length, the
key's first; in the two text commands and in CLASSIFY it is never reported. -/
def Obligations.RawLengthFailuresInOrder : Prop :=
  (∀ s : State, s.InputsAccepted →
    (s.keyLen ≠ 32 → exec .decryptRaw s = .next (s.failedWith .cipherInitFailure .key 32 s.keyLen)) ∧
    (s.keyLen = 32 → s.ivLen ≠ 16 → exec .decryptRaw s = .next (s.failedWith .cipherInitFailure .iv 16 s.ivLen)) ∧
    (s.keyLen = 32 → s.ivLen = 16 → s.status.code ≠ .cipherInitFailure →
      ∃ t, exec .decryptRaw s = .next t ∧ t.status.code ≠ .cipherInitFailure)) ∧
  (∀ (s t : State) (i : Instr), i ≠ .decryptRaw → s.status.code ≠ .cipherInitFailure → exec i s = .next t →
    t.status.code ≠ .cipherInitFailure)

/-- R79 and R82: a late failure of any decrypt command reports its code with field, expected and actual values 0, leaves
`RES_LEN`, `CLS` and `CLS_SIZE` 0, and changes no byte outside the destination region, whose bytes are a draw. -/
def Obligations.LateFailuresReportNoCause : Prop :=
  ∀ (s : State) (i : Instr) (key iv : List Byte), s.Legal → s.status.busy = true → s.InputsAccepted →
    s.DecryptsWith key iv i →
    (pkcs7Unpad (cbcDecrypt s.ciphertext key iv) = .padFail → ∃ t, exec i s = .next t ∧
      t.status = Status.completed s.status.ovr .paddingValidationFailure .none ∧ t.errExp = 0 ∧ t.errAct = 0 ∧
      t.resLen = 0 ∧ t.cls = Cls.zero ∧ t.clsSize = 0 ∧
      ∀ a, s.dstRegion.contains a = false → readByte t.mem a = readByte s.mem a) ∧
    (pkcs7Unpad (cbcDecrypt s.ciphertext key iv) = .empty → ∃ t, exec i s = .next t ∧
      t.status = Status.completed s.status.ovr .emptyPlaintextAfterUnpad .none ∧ t.errExp = 0 ∧ t.errAct = 0 ∧
      t.resLen = 0 ∧ t.cls = Cls.zero ∧ t.clsSize = 0 ∧
      ∀ a, s.dstRegion.contains a = false → readByte t.mem a = readByte s.mem a)

/-- Derived from R78: an early failure, IllegalCommand among them, leaves the data memory unchanged and `RES_LEN`, `CLS`, `CLS_SIZE`
at 0. -/
def Obligations.EarlyFailuresWriteNoMemory : Prop :=
  ∀ s t : State, s.Legal → s.status.busy = true → complete s = .next t → t.status.err = true →
    t.status.code ≠ .paddingValidationFailure → t.status.code ≠ .emptyPlaintextAfterUnpad →
    t.mem = s.mem ∧ t.resLen = 0 ∧ t.cls = Cls.zero ∧ t.clsSize = 0

/-- R131 and R130, for every completion: which field an error names and which expected and actual values it carries. -/
def Obligations.ErrorContextByCode : Prop :=
  ∀ s t : State, s.Legal → s.status.busy = true → complete s = .next t →
    match t.status.code with
    | .none => t.status.field = .none ∧ t.errExp = 0 ∧ t.errAct = 0
    | .emptyInput =>
      (t.status.field = .key ∨ t.status.field = .iv ∨ t.status.field = .src) ∧ t.errExp = 0 ∧ t.errAct = 0
    | .unalignedCiphertext => t.status.field = .src ∧ t.errExp = 16 ∧ t.errAct = s.srcLen
    | .base64DecodeFailure => (t.status.field = .key ∨ t.status.field = .iv) ∧ t.errExp = 0 ∧ t.errAct = 0
    | .keyLengthMismatch => t.status.field = .key ∧ t.errExp = 32 ∧
        ∃ key, b64decode s.params.b64StrictTail (memRead s.mem s.keyAddr.toNat s.keyLen.toNat) = some key ∧
          t.errAct.toNat = key.length ∧ key.length ≠ 32
    | .ivLengthMismatch => t.status.field = .iv ∧ t.errExp = 16 ∧
        ∃ iv, b64decode s.params.b64StrictTail (memRead s.mem s.ivAddr.toNat s.ivLen.toNat) = some iv ∧
          t.errAct.toNat = iv.length ∧ iv.length ≠ 16
    | .cipherInitFailure => (t.status.field = .key ∧ t.errExp = 32 ∧ t.errAct = s.keyLen) ∨
        (t.status.field = .iv ∧ t.errExp = 16 ∧ t.errAct = s.ivLen)
    | .paddingValidationFailure => t.status.field = .none ∧ t.errExp = 0 ∧ t.errAct = 0
    | .emptyPlaintextAfterUnpad => t.status.field = .none ∧ t.errExp = 0 ∧ t.errAct = 0
    | .illegalCommand => t.status.field = .none ∧ t.errExp = 0 ∧ some t.errAct = s.pending
    | .busError => (t.status.field = .key ∧ t.errAct = s.keyAddr ∨ t.status.field = .iv ∧ t.errAct = s.ivAddr ∨
        t.status.field = .src ∧ t.errAct = s.srcAddr ∨ t.status.field = .dst ∧ t.errAct = s.dstAddr) ∧ t.errExp = 0
    | .bufferOverlap =>
      (t.status.field = .src ∨ t.status.field = .key ∨ t.status.field = .iv) ∧ t.errExp = 0 ∧ t.errAct = 0

/-- Derived from R74: DECRYPT_CLASSIFY and DECRYPT agree on the whole next state but for `CLS` and `CLS_SIZE`, which DECRYPT
leaves alone: the one fails exactly as the other, and a success publishes the same `STATUS`, `RES_LEN` and memory. In
DECRYPT_CLASSIFY the two stay 0 on a failure, and `CLS_SIZE` is `RES_LEN` on a success. -/
def Obligations.DecryptClassifyFailsAsDecrypt : Prop :=
  ∀ s t u : State, exec .decrypt s = .next t → exec .decryptClassify s = .next u →
    u = { t with cls := u.cls, clsSize := u.clsSize } ∧
    u.status = t.status ∧ u.errExp = t.errExp ∧ u.errAct = t.errAct ∧ u.resLen = t.resLen ∧ u.mem = t.mem ∧
    t.cls = s.cls ∧ t.clsSize = s.clsSize ∧
    (s.Legal → s.status.busy = true → u.status.err = true → u.cls = Cls.zero ∧ u.clsSize = 0) ∧
    (s.Legal → s.status.busy = true → u.status.err = false → u.clsSize = u.resLen)

/-! ### The commands: what they leave unchanged -/

/-- R77, and derived from R46, R73-R75, R78: a completion of DECRYPT, DECRYPT_CLASSIFY or DECRYPT_RAW changes no operand
register, not `CTRL`, `OVR`, `PENDING`, `ID` or anything of the HOST's; only DECRYPT_CLASSIFY may change `CLS` and
`CLS_SIZE`; only a success changes a result register, and it leaves the error report alone; after a success the
destination region `(DST_ADDR, SRC_LEN)` holds the full buffer, whose first `RES_LEN` bytes are the plaintext and whose
last `SRC_LEN - RES_LEN` bytes each hold that number; no byte outside the destination region changes; and a command that did
not pass the checks before the CBC stage writes no memory at all. -/
def Obligations.FrameOfTheDecryptCommands : Prop :=
  ∀ (s t : State) (i : Instr), i ≠ .classify → exec i s = .next t →
    s.SameSetup t ∧
    (i ≠ .decryptClassify → t.cls = s.cls ∧ t.clsSize = s.clsSize) ∧
    ((∀ key iv r, ¬(s.InputsAccepted ∧ s.DecryptsWith key iv i ∧
        pkcs7Unpad (cbcDecrypt s.ciphertext key iv) = .plaintext r)) →
      t.resLen = s.resLen ∧ t.cls = s.cls ∧ t.clsSize = s.clsSize) ∧
    (∀ key iv r, s.InputsAccepted → s.DecryptsWith key iv i →
        pkcs7Unpad (cbcDecrypt s.ciphertext key iv) = .plaintext r →
      memRead t.mem s.dstAddr.toNat s.srcLen.toNat = cbcDecrypt s.ciphertext key iv ∧
      memRead t.mem s.dstAddr.toNat t.resLen.toNat = r ∧ t.resLen.toNat < s.srcLen.toNat ∧
      (∀ a, s.dstAddr.toNat + t.resLen.toNat ≤ a → a < s.dstAddr.toNat + s.srcLen.toNat →
        (readByte t.mem a).toNat = s.srcLen.toNat - t.resLen.toNat) ∧
      t.errExp = s.errExp ∧ t.errAct = s.errAct ∧ t.status.err = s.status.err ∧ t.status.code = s.status.code ∧
      t.status.field = s.status.field) ∧
    (∀ a, s.dstRegion.contains a = false → readByte t.mem a = readByte s.mem a) ∧
    ((∀ key iv, ¬(s.InputsAccepted ∧ s.DecryptsWith key iv i)) → t.mem = s.mem)

/-- Derived from R122 and R123: CLASSIFY writes no memory and no register but `STATUS`, `CLS`, `CLS_SIZE` and, on a BusError,
`ERR_EXP` and `ERR_ACT`. -/
def Obligations.FrameOfClassify : Prop :=
  ∀ s t : State, exec .classify s = .next t →
    s.SameSetup t ∧ t.resLen = s.resLen ∧ t.mem = s.mem ∧ t.draws = s.draws ∧
    (s.srcLen = 0 ∨ s.srcAddr.toNat + s.srcLen.toNat ≤ s.memSize →
      t.errExp = s.errExp ∧ t.errAct = s.errAct ∧ t.status.err = s.status.err ∧ t.status.code = s.status.code ∧
      t.status.field = s.status.field) ∧
    (s.srcLen ≠ 0 ∧ s.memSize < s.srcAddr.toNat + s.srcLen.toNat → t.cls = s.cls ∧ t.clsSize = s.clsSize)

/-- Derived from R84: the outcome of a command is a function of its word, its operand registers and the bytes of the
regions it reads: two legal machines with a command in flight that agree on these (and on `OVR` and the implementation
parameters) publish the same results. After a success of a decrypt command they also hold the same destination bytes; after
an early failure each keeps its own memory (R78); after a late failure the destination bytes are draws, and nothing is said
of them. -/
def Obligations.OutcomeDependsOnlyOnOperandsAndRegions : Prop :=
  ∀ (i : Instr) (s s' t t' : State), s.Legal → s'.Legal → s.status.busy = true → s'.status.busy = true →
    s.status.ovr = s'.status.ovr → s.params = s'.params → s.SameOperands s' →
    s.SameBytes s' s.srcRegion → (i ≠ .classify → s.SameBytes s' s.keyRegion ∧ s.SameBytes s' s.ivRegion) →
    exec i s = .next t → exec i s' = .next t' →
    t.SameResults t' ∧
    (i ≠ .classify → t.status.err = false → t.SameBytes t' s.dstRegion) ∧
    (t.status.err = true → t.status.code.late = false → t.mem = s.mem ∧ t'.mem = s'.mem)

/-! ### The base64 decoder (41_base64.md) -/

/-- R85: the alphabet. -/
def Obligations.Base64Alphabet : Prop :=
  ∀ (c : Byte) (v : Nat), (b64Value c).map BitVec.toNat = some v ↔
    (0x41 ≤ c.toNat ∧ c.toNat ≤ 0x5A ∧ v = c.toNat - 0x41) ∨
    (0x61 ≤ c.toNat ∧ c.toNat ≤ 0x7A ∧ v = c.toNat - 0x61 + 26) ∨
    (0x30 ≤ c.toNat ∧ c.toNat ≤ 0x39 ∧ v = c.toNat - 0x30 + 52) ∨
    (c = 0x2B ∧ v = 62) ∨ (c = 0x2F ∧ v = 63)

/-- Derived from R90-R92: a text of `L` bytes with `p` pad characters that is valid decodes to `3 * L / 4 - p` bytes (and `L`
is a multiple of 4, R86). And a text IS valid when `L` is a positive multiple of 4, all characters but at most two trailing
`=` are in the alphabet, and with the strict tail the unused bits are zero: the bytes of quantum `k` are then
`q[23:16], q[15:8], q[7:0]` of `q = v0 << 18 | v1 << 12 | v2 << 6 | v3`, where a `=`, which has no value, counts as 0. -/
def Obligations.Base64OutputLength : Prop :=
  (∀ (strict : Bool) (text out : List Byte), b64decode strict text = some out →
    text.length % 4 = 0 ∧ out.length = 3 * text.length / 4 - b64PadCount text ∧ b64PadCount text ≤ 2) ∧
  (∀ (strict : Bool) (text : List Byte) (p : Nat) (v : Nat → Nat),
    (∀ i, v i = ((b64Value (text.getD i 0)).map BitVec.toNat).getD 0) →
    text ≠ [] → text.length % 4 = 0 → p ≤ 2 →
    (∀ i, text.length - p ≤ i → i < text.length → text.getD i 0 = 0x3D) →
    (∀ i, i < text.length - p → b64Value (text.getD i 0) ≠ none) →
    (strict = true → p = 1 → v (text.length - 2) % 4 = 0) → (strict = true → p = 2 → v (text.length - 3) % 16 = 0) →
    ∃ out, b64decode strict text = some out ∧ out.length = 3 * text.length / 4 - p ∧
      ∀ k j, j < 3 → 3 * k + j < out.length →
        (out.getD (3 * k + j) 0).toNat =
          (v (4 * k) * 2 ^ 18 + v (4 * k + 1) * 2 ^ 12 + v (4 * k + 2) * 2 ^ 6 + v (4 * k + 3)) / 2 ^ (16 - 8 * j) % 2 ^ 8)

/-- R89 and R86: a byte outside the alphabet anywhere but in the last two places makes the text malformed, and there only
`=` may stand, the last place first; a text whose length is not a multiple of 4 is malformed. -/
def Obligations.Base64SkipsNothing : Prop :=
  ∀ (strict : Bool) (text : List Byte),
    (∀ i, i < text.length → b64Value (text.getD i 0) = none → text.getD i 0 ≠ 0x3D ∨ i + 2 < text.length →
      b64decode strict text = none) ∧
    (text.getD (text.length - 2) 0 = 0x3D → text.getD (text.length - 1) 0 ≠ 0x3D → b64decode strict text = none) ∧
    (text.length % 4 ≠ 0 → b64decode strict text = none)

/-- R88: with the strict tail a text is accepted exactly when it is accepted without it and the unused bits of its last
quantum are zero; the decoded bytes are the same. -/
def Obligations.Base64StrictTail : Prop :=
  ∀ text out : List Byte, 4 ≤ text.length →
    (b64decode true text = some out ↔
      b64decode false text = some out ∧
      (b64PadCount text = 1 → ∀ v, b64Value (text.getD (text.length - 2) 0) = some v → v.toNat % 4 = 0) ∧
      (b64PadCount text = 2 → ∀ v, b64Value (text.getD (text.length - 3) 0) = some v → v.toNat % 16 = 0))

/-- Derived from R85-R92: with the strict tail no two texts decode to the same bytes. -/
def Obligations.StrictBase64TextsAreCanonical : Prop :=
  ∀ text text' out : List Byte, b64decode true text = some out → b64decode true text' = some out → text = text'

/-! ### The cipher (42_aes256_cbc.md) -/

/-- R95, R97 and R98: the S-box is the affine map of the field inverse, the inverse S-box undoes it, and the constant
multiplications are multiplications of the field and the `xor`s of repeated `xtime` that R95 gives. With it, derived from
R94, what pins the field's multiplication: `a • 0x01 = a`, `a •` keeps `xor`, and it keeps multiplication by `x`. -/
def Obligations.TablesAndConstantsAreThoseOfTheField : Prop :=
  (∀ b : Byte, ∃ t : Byte, (b = 0 → t = 0) ∧ (b ≠ 0 → gfMul b t = 0x01) ∧
    ∀ i, i < 8 → (sbox b).getLsbD i = (t.getLsbD i ^^ t.getLsbD ((i + 4) % 8) ^^ t.getLsbD ((i + 5) % 8) ^^
      t.getLsbD ((i + 6) % 8) ^^ t.getLsbD ((i + 7) % 8) ^^ (0x63#8).getLsbD i)) ∧
  (∀ b : Byte, invSbox (sbox b) = b) ∧
  (∀ a : Byte, xtime a = gfMul a 0x02 ∧ mul09 a = gfMul a 0x09 ∧ mul0B a = gfMul a 0x0B ∧ mul0D a = gfMul a 0x0D ∧
    mul0E a = gfMul a 0x0E) ∧
  (∀ a : Byte, xtime a = (a <<< 1) ^^^ (if a.getLsbD 7 then 0x1B else 0x00) ∧
    mul09 a = xtime (xtime (xtime a)) ^^^ a ∧ mul0B a = xtime (xtime (xtime a)) ^^^ xtime a ^^^ a ∧
    mul0D a = xtime (xtime (xtime a)) ^^^ xtime (xtime a) ^^^ a ∧
    mul0E a = xtime (xtime (xtime a)) ^^^ xtime (xtime a) ^^^ xtime a) ∧
  (∀ a b c : Byte, gfMul a 0x01 = a ∧ gfMul a (b ^^^ c) = gfMul a b ^^^ gfMul a c ∧
    gfMul a (xtime b) = xtime (gfMul a b))

/-- R99, R100 and R101: `InvShiftRows` moves byte `(r, c)` of the state, byte `r + 4c` of the block, to column
`(c + r) mod 4` of its row; `InvMixColumns` multiplies each column by the fixed matrix over the field of R94;
`AddRoundKey(k)` xors byte `(r, c)` with byte `r` of `w[4k + c]`; `InvSubBytes` replaces every byte by its inverse S-box
value. With it, derived from R96, how a block is loaded into the state and read back. -/
def Obligations.InverseRoundTransforms : Prop :=
  (∀ (s : AesBlock) (r c : Nat), r < 4 → c < 4 →
    (storeBlock (invShiftRows s)).getD (r + 4 * ((c + r) % 4)) 0 = (storeBlock s).getD (r + 4 * c) 0) ∧
  (∀ (s : AesBlock) (a : Column), a = s.c0 ∨ a = s.c1 ∨ a = s.c2 ∨ a = s.c3 →
    invMixColumns s = { c0 := invMixColumn s.c0, c1 := invMixColumn s.c1, c2 := invMixColumn s.c2, c3 := invMixColumn s.c3 } ∧
    invMixColumn a =
      { b0 := gfMul 0x0E a.b0 ^^^ gfMul 0x0B a.b1 ^^^ gfMul 0x0D a.b2 ^^^ gfMul 0x09 a.b3
        b1 := gfMul 0x09 a.b0 ^^^ gfMul 0x0E a.b1 ^^^ gfMul 0x0B a.b2 ^^^ gfMul 0x0D a.b3
        b2 := gfMul 0x0D a.b0 ^^^ gfMul 0x09 a.b1 ^^^ gfMul 0x0E a.b2 ^^^ gfMul 0x0B a.b3
        b3 := gfMul 0x0B a.b0 ^^^ gfMul 0x0D a.b1 ^^^ gfMul 0x09 a.b2 ^^^ gfMul 0x0E a.b3 }) ∧
  (∀ (w : List Column) (k : Nat) (s : AesBlock) (r c : Nat), r < 4 → c < 4 →
    (storeBlock (addRoundKey w k s)).getD (r + 4 * c) 0 =
      (storeBlock s).getD (r + 4 * c) 0 ^^^ (w.getD (4 * k + c) Column.zero).bytes.getD r 0) ∧
  (∀ (s : AesBlock) (j : Nat), j < 16 → (storeBlock (invSubBytes s)).getD j 0 = invSbox ((storeBlock s).getD j 0)) ∧
  (∀ a : Column, a.bytes = [a.b0, a.b1, a.b2, a.b3]) ∧
  (∀ s : AesBlock, storeBlock s =
    [s.c0.b0, s.c0.b1, s.c0.b2, s.c0.b3, s.c1.b0, s.c1.b1, s.c1.b2, s.c1.b3,
     s.c2.b0, s.c2.b1, s.c2.b2, s.c2.b3, s.c3.b0, s.c3.b1, s.c3.b2, s.c3.b3]) ∧
  (∀ block : List Byte, block.length = 16 → storeBlock (loadBlock block) = block)

/-- R102, R103 and R104: the 60 words of the key expansion, the recurrence that gives them, and the round key of each round;
`Rcon`, with the seven values that AES-256 uses; `RotWord` and `SubWord` byte by byte, and the `xor` of words. -/
def Obligations.KeyExpansionRecurrence : Prop :=
  (∀ key : List Byte, key.length = 32 →
    (keyExpansion key).length = 60 ∧
    (∀ i, i < 8 → (keyExpansion key).getD i Column.zero =
      { b0 := key.getD (4 * i) 0, b1 := key.getD (4 * i + 1) 0, b2 := key.getD (4 * i + 2) 0, b3 := key.getD (4 * i + 3) 0 }) ∧
    (∀ i, 8 ≤ i → i < 60 → (keyExpansion key).getD i Column.zero =
      ((keyExpansion key).getD (i - 8) Column.zero).xor
        (if i % 8 = 0 then (subWord (rotWord ((keyExpansion key).getD (i - 1) Column.zero))).xor (rcon (i / 8))
         else if i % 8 = 4 then subWord ((keyExpansion key).getD (i - 1) Column.zero)
         else (keyExpansion key).getD (i - 1) Column.zero)) ∧
    (∀ k (s : AesBlock), k ≤ 14 → addRoundKey (keyExpansion key) k s =
      { c0 := s.c0.xor ((keyExpansion key).getD (4 * k) Column.zero)
        c1 := s.c1.xor ((keyExpansion key).getD (4 * k + 1) Column.zero)
        c2 := s.c2.xor ((keyExpansion key).getD (4 * k + 2) Column.zero)
        c3 := s.c3.xor ((keyExpansion key).getD (4 * k + 3) Column.zero) })) ∧
  ((List.range 7).map (fun j => (rcon (j + 1)).b0) = [0x01, 0x02, 0x04, 0x08, 0x10, 0x20, 0x40]) ∧
  (∀ j, 1 ≤ j → (rcon (j + 1)).b0 = xtime (rcon j).b0) ∧
  (∀ j, (rcon j).b1 = 0 ∧ (rcon j).b2 = 0 ∧ (rcon j).b3 = 0) ∧
  (∀ a : Column, rotWord a = { b0 := a.b1, b1 := a.b2, b2 := a.b3, b3 := a.b0 } ∧
    subWord a = { b0 := sbox a.b0, b1 := sbox a.b1, b2 := sbox a.b2, b3 := sbox a.b3 }) ∧
  (∀ a b : Column, a.xor b = { b0 := a.b0 ^^^ b.b0, b1 := a.b1 ^^^ b.b1, b2 := a.b2 ^^^ b.b2, b3 := a.b3 ^^^ b.b3 })

/-- R106: the sequence of the inverse cipher, round key 14 first, rounds 13 down to 1, and the last round without
`InvMixColumns`; and for each expanded key it is a bijection on 16-byte blocks and always succeeds. -/
def Obligations.InverseCipherIsABijection : Prop :=
  ∀ w : List Column,
    (∀ b, aes256InvCipher b w = storeBlock (addRoundKey w 0 (invSubBytes (invShiftRows
      ([13, 12, 11, 10, 9, 8, 7, 6, 5, 4, 3, 2, 1].foldl
        (fun s round => invMixColumns (addRoundKey w round (invSubBytes (invShiftRows s))))
        (addRoundKey w 14 (loadBlock b))))))) ∧
    (∀ b, (aes256InvCipher b w).length = 16) ∧
    (∀ b b' : List Byte, b.length = 16 → b'.length = 16 → aes256InvCipher b w = aes256InvCipher b' w → b = b') ∧
    (∀ out : List Byte, out.length = 16 → ∃ b, b.length = 16 ∧ aes256InvCipher b w = out)

/-- R107 and R110: the decrypted buffer is as long as the ciphertext, and its block `i` is the inverse cipher of
ciphertext block `i` xored, byte by byte, with ciphertext block `i - 1`, or with the IV for `i = 0`. -/
def Obligations.CbcBlockEquation : Prop :=
  (∀ a b : List Byte, a.length = b.length → (xorBytes a b).length = a.length ∧
    ∀ j, j < a.length → (xorBytes a b).getD j 0 = a.getD j 0 ^^^ b.getD j 0) ∧
  ∀ ct key iv : List Byte, ct.length % 16 = 0 → iv.length = 16 →
    (cbcDecrypt ct key iv).length = ct.length ∧
    ∀ i, i < ct.length / 16 →
      ((cbcDecrypt ct key iv).drop (16 * i)).take 16 =
        xorBytes (aes256InvCipher ((ct.drop (16 * i)).take 16) (keyExpansion key))
          (if i = 0 then iv else (ct.drop (16 * (i - 1))).take 16)

/-- Derived from R106, R107, R112, R115 and the source's round-trip property (95_test_vectors.md S1): for every key, IV
and non-empty plaintext there is exactly one ciphertext that decrypts to the plaintext with its PKCS7 padding, and the
Padding Remover gives the plaintext back. -/
def Obligations.EveryPlaintextHasOneCiphertext : Prop :=
  ∀ key iv p : List Byte, iv.length = 16 → p ≠ [] →
    ∃ ct : List Byte, ct.length = p.length + (16 - p.length % 16) ∧
      cbcDecrypt ct key iv = p ++ List.replicate (16 - p.length % 16) (BitVec.ofNat 8 (16 - p.length % 16)) ∧
      pkcs7Unpad (cbcDecrypt ct key iv) = .plaintext p ∧
      ∀ ct' : List Byte, ct'.length % 16 = 0 → cbcDecrypt ct' key iv = cbcDecrypt ct key iv → ct' = ct

/-! ### The Padding Remover and the Format Sniffer (43_pkcs7.md, 44_classify.md) -/

/-- R112, R113 and R114: a buffer of whole blocks unpads to `r` exactly when it is a non-empty `r` followed by `n` bytes `n`, with
`1 <= n <= 16`; it is EMPTY exactly when it is sixteen bytes 0x10; every other buffer is a padding failure. -/
def Obligations.Pkcs7AcceptsExactlyValidPadding : Prop :=
  ∀ buf : List Byte, 16 ≤ buf.length → buf.length % 16 = 0 →
    (∀ r, pkcs7Unpad buf = .plaintext r ↔
      r ≠ [] ∧ ∃ n, 1 ≤ n ∧ n ≤ 16 ∧ buf = r ++ List.replicate n (BitVec.ofNat 8 n)) ∧
    (pkcs7Unpad buf = .empty ↔ buf = List.replicate 16 0x10) ∧
    (pkcs7Unpad buf = .padFail ↔
      ¬∃ r n, 1 ≤ n ∧ n ≤ 16 ∧ buf = r ++ List.replicate n (BitVec.ofNat 8 n))

/-- R117 and R119 (so R120 and R121): the tag of a buffer by its signature alone, so that the order of the rows changes no result, and a
buffer of fewer than 8 bytes is unknown; only the first 12 bytes are read. -/
def Obligations.SniffBySignature : Prop :=
  ∀ buf : List Byte,
    (sniff buf = .jpeg ↔ 8 ≤ buf.length ∧ [0xFF, 0xD8, 0xFF] <+: buf) ∧
    (sniff buf = .png ↔ [0x89, 0x50, 0x4E, 0x47, 0x0D, 0x0A, 0x1A, 0x0A] <+: buf) ∧
    (sniff buf = .gif ↔ 8 ≤ buf.length ∧
      ([0x47, 0x49, 0x46, 0x38, 0x37, 0x61] <+: buf ∨ [0x47, 0x49, 0x46, 0x38, 0x39, 0x61] <+: buf)) ∧
    (sniff buf = .webp ↔ [0x52, 0x49, 0x46, 0x46] <+: buf ∧ [0x57, 0x45, 0x42, 0x50] <+: buf.drop 8) ∧
    (sniff buf = .bmp ↔ 8 ≤ buf.length ∧ [0x42, 0x4D] <+: buf) ∧
    (buf.length < 8 → sniff buf = .unknown) ∧
    sniff buf = sniff (buf.take 12)

/-! ### Invariants and whole-machine rules -/

/-- Derived from R15, R20, R35, R146: the machine right after reset satisfies the invariants below. -/
def Obligations.ResetSatisfiesTheInvariants : Prop :=
  State.reset.Legal ∧ Memory.wf State.reset.mem ∧ State.reset.MemoryInside ∧ State.reset.Scrubbed

/-- Derived from R20, R67 and R125: the legal combinations of `STATUS` and of the registers that go with it are kept by every
step, whoever moves. -/
def Obligations.LegalStatesStayLegal : Prop :=
  ∀ s t : State, s.Legal → step s = .next t → t.Legal

/-- Derived from R37 and R41: every step keeps the data memory in canonical form and inside `MEM_SIZE`. -/
def Obligations.MemoryStaysCanonicalAndInside : Prop :=
  ∀ s t : State, Memory.wf s.mem → s.MemoryInside → step s = .next t → Memory.wf t.mem ∧ t.MemoryInside

/-- Derived from R41 and R42: two memories in canonical form that read the same at every address are equal; and what the
data memory's operations do byte by byte: byte `i` of `MemRead(addr, n)` is `mem[addr + i]`, and after `MemWrite(addr, n, v)`
byte `addr + i` is `v[i]` and every other byte is as it was. -/
def Obligations.CanonicalMemoriesAreDeterminedByReads : Prop :=
  (∀ m m' : Memory, Memory.wf m → Memory.wf m' → (∀ a, readByte m a = readByte m' a) → m = m') ∧
  (∀ (m : Memory) (addr n : Nat), (memRead m addr n).length = n ∧
    ∀ i, i < n → (memRead m addr n).getD i 0 = readByte m (addr + i)) ∧
  (∀ (m : Memory) (addr : Nat) (v : List Byte),
    (∀ i, i < v.length → readByte (memWrite m addr v) (addr + i) = v.getD i 0) ∧
    (∀ a, a < addr ∨ addr + v.length ≤ a → readByte (memWrite m addr v) a = readByte m a))

/-- Derived from R35, R80 and R141: no step leaves a key-derived value in the working copies, and a completion removes any
that is there. -/
def Obligations.KeyMaterialNeverSurvivesAStep : Prop :=
  (∀ s t : State, s.Scrubbed → step s = .next t → t.Scrubbed) ∧
  (∀ s t : State, s.status.busy = true → t.status.busy = false → step s = .next t → t.Scrubbed)

/-- R18, and derived from R7: no step, reset among them, changes `ID` or an implementation parameter; `ALGO` is 0x01, bits
[31:24] read 0 and `VERSION` is the parameter. -/
def Obligations.IdentificationNeverChanges : Prop :=
  (∀ s t : State, step s = .next t → t.params = s.params ∧ t.regWord .id = s.regWord .id) ∧
  (∀ s : State, (s.regWord .id).extractLsb' 0 16 = s.params.idVersion ∧ (s.regWord .id).extractLsb' 16 8 = 0x01#8 ∧
    (s.regWord .id).extractLsb' 24 8 = 0#8)

/-- Derived from R68 and R70, over every step: while a command is in flight neither `PENDING` nor any operand or result
register changes, whatever the HOST does. -/
def Obligations.OperandsAreFrozenInFlight : Prop :=
  ∀ s t : State, s.status.busy = true → t.status.busy = true → step s = .next t →
    s.SameOperands t ∧ t.pending = s.pending ∧ t.resLen = s.resLen ∧ t.errExp = s.errExp ∧ t.errAct = s.errAct ∧
    t.cls = s.cls ∧ t.clsSize = s.clsSize

/-- Derived from R21 and R24, over every step: `BUSY` rises only by the HOST's write of `CMD`, which latches the word; it
falls only by the completion step of the command in flight, which sets `DONE`, or by reset, after which `STATUS` reads 0;
`OVR` falls only by the HOST's write of `STATUS` with bit 3 set or by reset. -/
def Obligations.WhatChangesBusyAndOverrun : Prop :=
  ∀ s t : State, step s = .next t →
    (s.status.busy = false → t.status.busy = true →
      ∃ c rest, s.script = .regWrite 32 Reg.cmd.offset c :: rest ∧ t.pending = some c) ∧
    (s.status.busy = true → t.status.busy = false →
      (complete { s with schedule := s.schedule.tail } = .next t ∧ t.status.done = true) ∨
      (∃ rest, s.script = .reset :: rest) ∧ t.regWord .status = 0) ∧
    (s.status.ovr = true → t.status.ovr = false →
      (∃ v rest, s.script = .regWrite 32 Reg.status.offset v :: rest ∧ v.getLsbD 3 = true) ∨
      ∃ rest, s.script = .reset :: rest)

/-- Derived from R46, R147 and R148, over every step: a byte of the data memory changes only by the HOST's write of that
byte, or inside the destination region of a decrypt command in flight, and then only by its completion step or by a reset
that abandons it, so that it is no longer in flight. -/
def Obligations.WhatChangesMemory : Prop :=
  ∀ (s t : State) (a : Nat), step s = .next t → readByte t.mem a ≠ readByte s.mem a →
    (∃ addr b rest, s.script = .memWrite addr b :: rest ∧ addr.toNat = a) ∨
    (s.status.busy = true ∧ s.dstRegion.contains a = true ∧ (∃ i, decode s.pendingWord = .ok i ∧ i ≠ .classify) ∧
      t.status.busy = false ∧
      (complete { s with schedule := s.schedule.tail } = .next t ∨ ∃ rest, s.script = .reset :: rest))

/-- Derived from R157 and R159, under the weak fairness of assumption 2 and with the polling access of assumption 17: with a
command in flight and a HOST that does nothing but poll, some number of steps later a poll has read `DONE = 1` and the script
is done. -/
def Obligations.PollingSeesCompletion : Prop :=
  ∀ s : State, s.Legal → s.status.busy = true → s.script = [.waitDone] →
    ∃ k t w rest, Host.Core.run Sys2Proof.core k s = .next t ∧ t.Final ∧ t.status.done = true ∧
      t.reads = .reg Reg.status.offset w :: rest ∧ w.getLsbD 1 = true
end

