-- ==== Sys2Proof/Laws/State.lean ====
section
/-! SUPPORT. One lemma per field per update of State, true by rfl, so that no later proof unfolds a record update. -/
namespace Sys2Proof.Machine

/-! ### `launch` -/

@[simp] theorem launch_params (c : Word) (s : State) : (launch c s).params = s.params := rfl

@[simp] theorem launch_irqEn (c : Word) (s : State) : (launch c s).irqEn = s.irqEn := rfl

@[simp] theorem launch_status (c : Word) (s : State) :
    (launch c s).status = { s.status with busy := true, done := false, err := false, code := .none, field := .none } := rfl

@[simp] theorem launch_srcAddr (c : Word) (s : State) : (launch c s).srcAddr = s.srcAddr := rfl

@[simp] theorem launch_srcLen (c : Word) (s : State) : (launch c s).srcLen = s.srcLen := rfl

@[simp] theorem launch_keyAddr (c : Word) (s : State) : (launch c s).keyAddr = s.keyAddr := rfl

@[simp] theorem launch_keyLen (c : Word) (s : State) : (launch c s).keyLen = s.keyLen := rfl

@[simp] theorem launch_ivAddr (c : Word) (s : State) : (launch c s).ivAddr = s.ivAddr := rfl

@[simp] theorem launch_ivLen (c : Word) (s : State) : (launch c s).ivLen = s.ivLen := rfl

@[simp] theorem launch_dstAddr (c : Word) (s : State) : (launch c s).dstAddr = s.dstAddr := rfl

@[simp] theorem launch_resLen (c : Word) (s : State) : (launch c s).resLen = 0 := rfl

@[simp] theorem launch_errExp (c : Word) (s : State) : (launch c s).errExp = 0 := rfl

@[simp] theorem launch_errAct (c : Word) (s : State) : (launch c s).errAct = 0 := rfl

@[simp] theorem launch_cls (c : Word) (s : State) : (launch c s).cls = Cls.zero := rfl

@[simp] theorem launch_clsSize (c : Word) (s : State) : (launch c s).clsSize = 0 := rfl

@[simp] theorem launch_pending (c : Word) (s : State) : (launch c s).pending = some c := rfl

@[simp] theorem launch_keyBuf (c : Word) (s : State) : (launch c s).keyBuf = s.keyBuf := rfl

@[simp] theorem launch_ivBuf (c : Word) (s : State) : (launch c s).ivBuf = s.ivBuf := rfl

@[simp] theorem launch_keySched (c : Word) (s : State) : (launch c s).keySched = s.keySched := rfl

@[simp] theorem launch_prev (c : Word) (s : State) : (launch c s).prev = s.prev := rfl

@[simp] theorem launch_mem (c : Word) (s : State) : (launch c s).mem = s.mem := rfl

@[simp] theorem launch_draws (c : Word) (s : State) : (launch c s).draws = s.draws := rfl

@[simp] theorem launch_script (c : Word) (s : State) : (launch c s).script = s.script := rfl

@[simp] theorem launch_schedule (c : Word) (s : State) : (launch c s).schedule = s.schedule := rfl

@[simp] theorem launch_reads (c : Word) (s : State) : (launch c s).reads = s.reads := rfl

/-! ### `launchForEngine` -/

@[simp] theorem launchForEngine_params (c : Word) (s : State) : (launchForEngine c s).params = s.params := rfl

@[simp] theorem launchForEngine_irqEn (c : Word) (s : State) : (launchForEngine c s).irqEn = s.irqEn := rfl

@[simp] theorem launchForEngine_status (c : Word) (s : State) :
    (launchForEngine c s).status = { s.status with busy := true, done := false, err := false, code := .none, field := .none } := rfl

@[simp] theorem launchForEngine_srcAddr (c : Word) (s : State) : (launchForEngine c s).srcAddr = s.srcAddr := rfl

@[simp] theorem launchForEngine_srcLen (c : Word) (s : State) : (launchForEngine c s).srcLen = s.srcLen := rfl

@[simp] theorem launchForEngine_keyAddr (c : Word) (s : State) : (launchForEngine c s).keyAddr = s.keyAddr := rfl

@[simp] theorem launchForEngine_keyLen (c : Word) (s : State) : (launchForEngine c s).keyLen = s.keyLen := rfl

@[simp] theorem launchForEngine_ivAddr (c : Word) (s : State) : (launchForEngine c s).ivAddr = s.ivAddr := rfl

@[simp] theorem launchForEngine_ivLen (c : Word) (s : State) : (launchForEngine c s).ivLen = s.ivLen := rfl

@[simp] theorem launchForEngine_dstAddr (c : Word) (s : State) : (launchForEngine c s).dstAddr = s.dstAddr := rfl

@[simp] theorem launchForEngine_resLen (c : Word) (s : State) : (launchForEngine c s).resLen = 0 := rfl

@[simp] theorem launchForEngine_errExp (c : Word) (s : State) : (launchForEngine c s).errExp = 0 := rfl

@[simp] theorem launchForEngine_errAct (c : Word) (s : State) : (launchForEngine c s).errAct = 0 := rfl

@[simp] theorem launchForEngine_cls (c : Word) (s : State) : (launchForEngine c s).cls = Cls.zero := rfl

@[simp] theorem launchForEngine_clsSize (c : Word) (s : State) : (launchForEngine c s).clsSize = 0 := rfl

@[simp] theorem launchForEngine_pending (c : Word) (s : State) : (launchForEngine c s).pending = some c := rfl

@[simp] theorem launchForEngine_keyBuf (c : Word) (s : State) : (launchForEngine c s).keyBuf = s.keyBuf := rfl

@[simp] theorem launchForEngine_ivBuf (c : Word) (s : State) : (launchForEngine c s).ivBuf = s.ivBuf := rfl

@[simp] theorem launchForEngine_keySched (c : Word) (s : State) : (launchForEngine c s).keySched = s.keySched := rfl

@[simp] theorem launchForEngine_prev (c : Word) (s : State) : (launchForEngine c s).prev = s.prev := rfl

@[simp] theorem launchForEngine_mem (c : Word) (s : State) : (launchForEngine c s).mem = s.mem := rfl

@[simp] theorem launchForEngine_draws (c : Word) (s : State) : (launchForEngine c s).draws = s.draws := rfl

@[simp] theorem launchForEngine_script (c : Word) (s : State) : (launchForEngine c s).script = s.script := rfl

@[simp] theorem launchForEngine_schedule (c : Word) (s : State) : (launchForEngine c s).schedule = .engine :: s.schedule := rfl

@[simp] theorem launchForEngine_reads (c : Word) (s : State) : (launchForEngine c s).reads = s.reads := rfl

/-! ### `publish` -/

@[simp] theorem publish_params (s : State) : (publish s).params = s.params := rfl

@[simp] theorem publish_irqEn (s : State) : (publish s).irqEn = s.irqEn := rfl

@[simp] theorem publish_status (s : State) :
    (publish s).status = { s.status with busy := false, done := true } := rfl

@[simp] theorem publish_srcAddr (s : State) : (publish s).srcAddr = s.srcAddr := rfl

@[simp] theorem publish_srcLen (s : State) : (publish s).srcLen = s.srcLen := rfl

@[simp] theorem publish_keyAddr (s : State) : (publish s).keyAddr = s.keyAddr := rfl

@[simp] theorem publish_keyLen (s : State) : (publish s).keyLen = s.keyLen := rfl

@[simp] theorem publish_ivAddr (s : State) : (publish s).ivAddr = s.ivAddr := rfl

@[simp] theorem publish_ivLen (s : State) : (publish s).ivLen = s.ivLen := rfl

@[simp] theorem publish_dstAddr (s : State) : (publish s).dstAddr = s.dstAddr := rfl

@[simp] theorem publish_resLen (s : State) : (publish s).resLen = s.resLen := rfl

@[simp] theorem publish_errExp (s : State) : (publish s).errExp = s.errExp := rfl

@[simp] theorem publish_errAct (s : State) : (publish s).errAct = s.errAct := rfl

@[simp] theorem publish_cls (s : State) : (publish s).cls = s.cls := rfl

@[simp] theorem publish_clsSize (s : State) : (publish s).clsSize = s.clsSize := rfl

@[simp] theorem publish_pending (s : State) : (publish s).pending = s.pending := rfl

@[simp] theorem publish_keyBuf (s : State) : (publish s).keyBuf = none := rfl

@[simp] theorem publish_ivBuf (s : State) : (publish s).ivBuf = none := rfl

@[simp] theorem publish_keySched (s : State) : (publish s).keySched = none := rfl

@[simp] theorem publish_prev (s : State) : (publish s).prev = none := rfl

@[simp] theorem publish_mem (s : State) : (publish s).mem = s.mem := rfl

@[simp] theorem publish_draws (s : State) : (publish s).draws = s.draws := rfl

@[simp] theorem publish_script (s : State) : (publish s).script = s.script := rfl

@[simp] theorem publish_schedule (s : State) : (publish s).schedule = s.schedule := rfl

@[simp] theorem publish_reads (s : State) : (publish s).reads = s.reads := rfl

/-! ### `finishOk` -/

@[simp] theorem finishOk_params (s : State) : (finishOk s).params = s.params := rfl

@[simp] theorem finishOk_irqEn (s : State) : (finishOk s).irqEn = s.irqEn := rfl

@[simp] theorem finishOk_status (s : State) :
    (finishOk s).status = { s.status with busy := false, done := true } := rfl

@[simp] theorem finishOk_srcAddr (s : State) : (finishOk s).srcAddr = s.srcAddr := rfl

@[simp] theorem finishOk_srcLen (s : State) : (finishOk s).srcLen = s.srcLen := rfl

@[simp] theorem finishOk_keyAddr (s : State) : (finishOk s).keyAddr = s.keyAddr := rfl

@[simp] theorem finishOk_keyLen (s : State) : (finishOk s).keyLen = s.keyLen := rfl

@[simp] theorem finishOk_ivAddr (s : State) : (finishOk s).ivAddr = s.ivAddr := rfl

@[simp] theorem finishOk_ivLen (s : State) : (finishOk s).ivLen = s.ivLen := rfl

@[simp] theorem finishOk_dstAddr (s : State) : (finishOk s).dstAddr = s.dstAddr := rfl

@[simp] theorem finishOk_resLen (s : State) : (finishOk s).resLen = s.resLen := rfl

@[simp] theorem finishOk_errExp (s : State) : (finishOk s).errExp = s.errExp := rfl

@[simp] theorem finishOk_errAct (s : State) : (finishOk s).errAct = s.errAct := rfl

@[simp] theorem finishOk_cls (s : State) : (finishOk s).cls = s.cls := rfl

@[simp] theorem finishOk_clsSize (s : State) : (finishOk s).clsSize = s.clsSize := rfl

@[simp] theorem finishOk_pending (s : State) : (finishOk s).pending = s.pending := rfl

@[simp] theorem finishOk_keyBuf (s : State) : (finishOk s).keyBuf = none := rfl

@[simp] theorem finishOk_ivBuf (s : State) : (finishOk s).ivBuf = none := rfl

@[simp] theorem finishOk_keySched (s : State) : (finishOk s).keySched = none := rfl

@[simp] theorem finishOk_prev (s : State) : (finishOk s).prev = none := rfl

@[simp] theorem finishOk_mem (s : State) : (finishOk s).mem = s.mem := rfl

@[simp] theorem finishOk_draws (s : State) : (finishOk s).draws = s.draws := rfl

@[simp] theorem finishOk_script (s : State) : (finishOk s).script = s.script := rfl

@[simp] theorem finishOk_schedule (s : State) : (finishOk s).schedule = s.schedule := rfl

@[simp] theorem finishOk_reads (s : State) : (finishOk s).reads = s.reads := rfl

/-! ### `raiseCmdError` -/

@[simp] theorem raiseCmdError_params (e : CmdError) (s : State) : (raiseCmdError e s).params = s.params := rfl

@[simp] theorem raiseCmdError_irqEn (e : CmdError) (s : State) : (raiseCmdError e s).irqEn = s.irqEn := rfl

@[simp] theorem raiseCmdError_status (e : CmdError) (s : State) :
    (raiseCmdError e s).status = { s.status with busy := false, done := true, err := true, code := e.code, field := e.field } := rfl

@[simp] theorem raiseCmdError_srcAddr (e : CmdError) (s : State) : (raiseCmdError e s).srcAddr = s.srcAddr := rfl

@[simp] theorem raiseCmdError_srcLen (e : CmdError) (s : State) : (raiseCmdError e s).srcLen = s.srcLen := rfl

@[simp] theorem raiseCmdError_keyAddr (e : CmdError) (s : State) : (raiseCmdError e s).keyAddr = s.keyAddr := rfl

@[simp] theorem raiseCmdError_keyLen (e : CmdError) (s : State) : (raiseCmdError e s).keyLen = s.keyLen := rfl

@[simp] theorem raiseCmdError_ivAddr (e : CmdError) (s : State) : (raiseCmdError e s).ivAddr = s.ivAddr := rfl

@[simp] theorem raiseCmdError_ivLen (e : CmdError) (s : State) : (raiseCmdError e s).ivLen = s.ivLen := rfl

@[simp] theorem raiseCmdError_dstAddr (e : CmdError) (s : State) : (raiseCmdError e s).dstAddr = s.dstAddr := rfl

@[simp] theorem raiseCmdError_resLen (e : CmdError) (s : State) : (raiseCmdError e s).resLen = s.resLen := rfl

@[simp] theorem raiseCmdError_errExp (e : CmdError) (s : State) : (raiseCmdError e s).errExp = e.exp := rfl

@[simp] theorem raiseCmdError_errAct (e : CmdError) (s : State) : (raiseCmdError e s).errAct = e.act := rfl

@[simp] theorem raiseCmdError_cls (e : CmdError) (s : State) : (raiseCmdError e s).cls = s.cls := rfl

@[simp] theorem raiseCmdError_clsSize (e : CmdError) (s : State) : (raiseCmdError e s).clsSize = s.clsSize := rfl

@[simp] theorem raiseCmdError_pending (e : CmdError) (s : State) : (raiseCmdError e s).pending = s.pending := rfl

@[simp] theorem raiseCmdError_keyBuf (e : CmdError) (s : State) : (raiseCmdError e s).keyBuf = none := rfl

@[simp] theorem raiseCmdError_ivBuf (e : CmdError) (s : State) : (raiseCmdError e s).ivBuf = none := rfl

@[simp] theorem raiseCmdError_keySched (e : CmdError) (s : State) : (raiseCmdError e s).keySched = none := rfl

@[simp] theorem raiseCmdError_prev (e : CmdError) (s : State) : (raiseCmdError e s).prev = none := rfl

@[simp] theorem raiseCmdError_mem (e : CmdError) (s : State) :
    (raiseCmdError e s).mem = if e.code.late then memWrite s.mem s.dstAddr.toNat (drawBytes s.draws s.srcLen.toNat) else s.mem := rfl

@[simp] theorem raiseCmdError_draws (e : CmdError) (s : State) :
    (raiseCmdError e s).draws = if e.code.late then s.draws + s.srcLen.toNat else s.draws := rfl

@[simp] theorem raiseCmdError_script (e : CmdError) (s : State) : (raiseCmdError e s).script = s.script := rfl

@[simp] theorem raiseCmdError_schedule (e : CmdError) (s : State) : (raiseCmdError e s).schedule = s.schedule := rfl

@[simp] theorem raiseCmdError_reads (e : CmdError) (s : State) : (raiseCmdError e s).reads = s.reads := rfl

/-! ### `illegalCommand` -/

@[simp] theorem illegalCommand_params (s : State) : (illegalCommand s).params = s.params := rfl

@[simp] theorem illegalCommand_irqEn (s : State) : (illegalCommand s).irqEn = s.irqEn := rfl

@[simp] theorem illegalCommand_status (s : State) :
    (illegalCommand s).status = { s.status with busy := false, done := true, err := true, code := .illegalCommand, field := .none } := rfl

@[simp] theorem illegalCommand_srcAddr (s : State) : (illegalCommand s).srcAddr = s.srcAddr := rfl

@[simp] theorem illegalCommand_srcLen (s : State) : (illegalCommand s).srcLen = s.srcLen := rfl

@[simp] theorem illegalCommand_keyAddr (s : State) : (illegalCommand s).keyAddr = s.keyAddr := rfl

@[simp] theorem illegalCommand_keyLen (s : State) : (illegalCommand s).keyLen = s.keyLen := rfl

@[simp] theorem illegalCommand_ivAddr (s : State) : (illegalCommand s).ivAddr = s.ivAddr := rfl

@[simp] theorem illegalCommand_ivLen (s : State) : (illegalCommand s).ivLen = s.ivLen := rfl

@[simp] theorem illegalCommand_dstAddr (s : State) : (illegalCommand s).dstAddr = s.dstAddr := rfl

@[simp] theorem illegalCommand_resLen (s : State) : (illegalCommand s).resLen = s.resLen := rfl

@[simp] theorem illegalCommand_errExp (s : State) : (illegalCommand s).errExp = 0 := rfl

@[simp] theorem illegalCommand_errAct (s : State) : (illegalCommand s).errAct = s.pendingWord := rfl

@[simp] theorem illegalCommand_cls (s : State) : (illegalCommand s).cls = s.cls := rfl

@[simp] theorem illegalCommand_clsSize (s : State) : (illegalCommand s).clsSize = s.clsSize := rfl

@[simp] theorem illegalCommand_pending (s : State) : (illegalCommand s).pending = s.pending := rfl

@[simp] theorem illegalCommand_keyBuf (s : State) : (illegalCommand s).keyBuf = none := rfl

@[simp] theorem illegalCommand_ivBuf (s : State) : (illegalCommand s).ivBuf = none := rfl

@[simp] theorem illegalCommand_keySched (s : State) : (illegalCommand s).keySched = none := rfl

@[simp] theorem illegalCommand_prev (s : State) : (illegalCommand s).prev = none := rfl

@[simp] theorem illegalCommand_mem (s : State) : (illegalCommand s).mem = s.mem := rfl

@[simp] theorem illegalCommand_draws (s : State) : (illegalCommand s).draws = s.draws := rfl

@[simp] theorem illegalCommand_script (s : State) : (illegalCommand s).script = s.script := rfl

@[simp] theorem illegalCommand_schedule (s : State) : (illegalCommand s).schedule = s.schedule := rfl

@[simp] theorem illegalCommand_reads (s : State) : (illegalCommand s).reads = s.reads := rfl

/-! ### `overrun` -/

@[simp] theorem overrun_params (s : State) : (s.overrun).params = s.params := rfl

@[simp] theorem overrun_irqEn (s : State) : (s.overrun).irqEn = s.irqEn := rfl

@[simp] theorem overrun_status (s : State) : (s.overrun).status = { s.status with ovr := true } := rfl

@[simp] theorem overrun_srcAddr (s : State) : (s.overrun).srcAddr = s.srcAddr := rfl

@[simp] theorem overrun_srcLen (s : State) : (s.overrun).srcLen = s.srcLen := rfl

@[simp] theorem overrun_keyAddr (s : State) : (s.overrun).keyAddr = s.keyAddr := rfl

@[simp] theorem overrun_keyLen (s : State) : (s.overrun).keyLen = s.keyLen := rfl

@[simp] theorem overrun_ivAddr (s : State) : (s.overrun).ivAddr = s.ivAddr := rfl

@[simp] theorem overrun_ivLen (s : State) : (s.overrun).ivLen = s.ivLen := rfl

@[simp] theorem overrun_dstAddr (s : State) : (s.overrun).dstAddr = s.dstAddr := rfl

@[simp] theorem overrun_resLen (s : State) : (s.overrun).resLen = s.resLen := rfl

@[simp] theorem overrun_errExp (s : State) : (s.overrun).errExp = s.errExp := rfl

@[simp] theorem overrun_errAct (s : State) : (s.overrun).errAct = s.errAct := rfl

@[simp] theorem overrun_cls (s : State) : (s.overrun).cls = s.cls := rfl

@[simp] theorem overrun_clsSize (s : State) : (s.overrun).clsSize = s.clsSize := rfl

@[simp] theorem overrun_pending (s : State) : (s.overrun).pending = s.pending := rfl

@[simp] theorem overrun_keyBuf (s : State) : (s.overrun).keyBuf = s.keyBuf := rfl

@[simp] theorem overrun_ivBuf (s : State) : (s.overrun).ivBuf = s.ivBuf := rfl

@[simp] theorem overrun_keySched (s : State) : (s.overrun).keySched = s.keySched := rfl

@[simp] theorem overrun_prev (s : State) : (s.overrun).prev = s.prev := rfl

@[simp] theorem overrun_mem (s : State) : (s.overrun).mem = s.mem := rfl

@[simp] theorem overrun_draws (s : State) : (s.overrun).draws = s.draws := rfl

@[simp] theorem overrun_script (s : State) : (s.overrun).script = s.script := rfl

@[simp] theorem overrun_schedule (s : State) : (s.overrun).schedule = s.schedule := rfl

@[simp] theorem overrun_reads (s : State) : (s.overrun).reads = s.reads := rfl

/-! ### `observe` -/

@[simp] theorem observe_params (x : ReadResult) (s : State) : (s.observe x).params = s.params := rfl

@[simp] theorem observe_irqEn (x : ReadResult) (s : State) : (s.observe x).irqEn = s.irqEn := rfl

@[simp] theorem observe_status (x : ReadResult) (s : State) : (s.observe x).status = s.status := rfl

@[simp] theorem observe_srcAddr (x : ReadResult) (s : State) : (s.observe x).srcAddr = s.srcAddr := rfl

@[simp] theorem observe_srcLen (x : ReadResult) (s : State) : (s.observe x).srcLen = s.srcLen := rfl

@[simp] theorem observe_keyAddr (x : ReadResult) (s : State) : (s.observe x).keyAddr = s.keyAddr := rfl

@[simp] theorem observe_keyLen (x : ReadResult) (s : State) : (s.observe x).keyLen = s.keyLen := rfl

@[simp] theorem observe_ivAddr (x : ReadResult) (s : State) : (s.observe x).ivAddr = s.ivAddr := rfl

@[simp] theorem observe_ivLen (x : ReadResult) (s : State) : (s.observe x).ivLen = s.ivLen := rfl

@[simp] theorem observe_dstAddr (x : ReadResult) (s : State) : (s.observe x).dstAddr = s.dstAddr := rfl

@[simp] theorem observe_resLen (x : ReadResult) (s : State) : (s.observe x).resLen = s.resLen := rfl

@[simp] theorem observe_errExp (x : ReadResult) (s : State) : (s.observe x).errExp = s.errExp := rfl

@[simp] theorem observe_errAct (x : ReadResult) (s : State) : (s.observe x).errAct = s.errAct := rfl

@[simp] theorem observe_cls (x : ReadResult) (s : State) : (s.observe x).cls = s.cls := rfl

@[simp] theorem observe_clsSize (x : ReadResult) (s : State) : (s.observe x).clsSize = s.clsSize := rfl

@[simp] theorem observe_pending (x : ReadResult) (s : State) : (s.observe x).pending = s.pending := rfl

@[simp] theorem observe_keyBuf (x : ReadResult) (s : State) : (s.observe x).keyBuf = s.keyBuf := rfl

@[simp] theorem observe_ivBuf (x : ReadResult) (s : State) : (s.observe x).ivBuf = s.ivBuf := rfl

@[simp] theorem observe_keySched (x : ReadResult) (s : State) : (s.observe x).keySched = s.keySched := rfl

@[simp] theorem observe_prev (x : ReadResult) (s : State) : (s.observe x).prev = s.prev := rfl

@[simp] theorem observe_mem (x : ReadResult) (s : State) : (s.observe x).mem = s.mem := rfl

@[simp] theorem observe_draws (x : ReadResult) (s : State) : (s.observe x).draws = s.draws := rfl

@[simp] theorem observe_script (x : ReadResult) (s : State) : (s.observe x).script = s.script := rfl

@[simp] theorem observe_schedule (x : ReadResult) (s : State) : (s.observe x).schedule = s.schedule := rfl

@[simp] theorem observe_reads (x : ReadResult) (s : State) : (s.observe x).reads = x :: s.reads := rfl

/-! ### `cipherStage` -/

@[simp] theorem cipherStage_params (k : KeyIv) (s : State) : (cipherStage k s).params = s.params := rfl

@[simp] theorem cipherStage_irqEn (k : KeyIv) (s : State) : (cipherStage k s).irqEn = s.irqEn := rfl

@[simp] theorem cipherStage_status (k : KeyIv) (s : State) : (cipherStage k s).status = s.status := rfl

@[simp] theorem cipherStage_srcAddr (k : KeyIv) (s : State) : (cipherStage k s).srcAddr = s.srcAddr := rfl

@[simp] theorem cipherStage_srcLen (k : KeyIv) (s : State) : (cipherStage k s).srcLen = s.srcLen := rfl

@[simp] theorem cipherStage_keyAddr (k : KeyIv) (s : State) : (cipherStage k s).keyAddr = s.keyAddr := rfl

@[simp] theorem cipherStage_keyLen (k : KeyIv) (s : State) : (cipherStage k s).keyLen = s.keyLen := rfl

@[simp] theorem cipherStage_ivAddr (k : KeyIv) (s : State) : (cipherStage k s).ivAddr = s.ivAddr := rfl

@[simp] theorem cipherStage_ivLen (k : KeyIv) (s : State) : (cipherStage k s).ivLen = s.ivLen := rfl

@[simp] theorem cipherStage_dstAddr (k : KeyIv) (s : State) : (cipherStage k s).dstAddr = s.dstAddr := rfl

@[simp] theorem cipherStage_resLen (k : KeyIv) (s : State) : (cipherStage k s).resLen = s.resLen := rfl

@[simp] theorem cipherStage_errExp (k : KeyIv) (s : State) : (cipherStage k s).errExp = s.errExp := rfl

@[simp] theorem cipherStage_errAct (k : KeyIv) (s : State) : (cipherStage k s).errAct = s.errAct := rfl

@[simp] theorem cipherStage_cls (k : KeyIv) (s : State) : (cipherStage k s).cls = s.cls := rfl

@[simp] theorem cipherStage_clsSize (k : KeyIv) (s : State) : (cipherStage k s).clsSize = s.clsSize := rfl

@[simp] theorem cipherStage_pending (k : KeyIv) (s : State) : (cipherStage k s).pending = s.pending := rfl

@[simp] theorem cipherStage_keyBuf (k : KeyIv) (s : State) : (cipherStage k s).keyBuf = some k.key := rfl

@[simp] theorem cipherStage_ivBuf (k : KeyIv) (s : State) : (cipherStage k s).ivBuf = some k.iv := rfl

@[simp] theorem cipherStage_keySched (k : KeyIv) (s : State) : (cipherStage k s).keySched = some (keyExpansion k.key) := rfl

@[simp] theorem cipherStage_prev (k : KeyIv) (s : State) :
    (cipherStage k s).prev = some (cbcLastPrev (s.regionBytes s.srcRegion)) := rfl

@[simp] theorem cipherStage_mem (k : KeyIv) (s : State) :
    (cipherStage k s).mem = memWrite s.mem s.dstAddr.toNat (cbcDecrypt (s.regionBytes s.srcRegion) k.key k.iv) := rfl

@[simp] theorem cipherStage_draws (k : KeyIv) (s : State) : (cipherStage k s).draws = s.draws := rfl

@[simp] theorem cipherStage_script (k : KeyIv) (s : State) : (cipherStage k s).script = s.script := rfl

@[simp] theorem cipherStage_schedule (k : KeyIv) (s : State) : (cipherStage k s).schedule = s.schedule := rfl

@[simp] theorem cipherStage_reads (k : KeyIv) (s : State) : (cipherStage k s).reads = s.reads := rfl

/-! ### `resetInput` -/

@[simp] theorem resetInput_params (s : State) : (resetInput s).params = s.params := rfl

@[simp] theorem resetInput_irqEn (s : State) : (resetInput s).irqEn = false := rfl

@[simp] theorem resetInput_status (s : State) : (resetInput s).status = State.reset.status := rfl

@[simp] theorem resetInput_srcAddr (s : State) : (resetInput s).srcAddr = 0 := rfl

@[simp] theorem resetInput_srcLen (s : State) : (resetInput s).srcLen = 0 := rfl

@[simp] theorem resetInput_keyAddr (s : State) : (resetInput s).keyAddr = 0 := rfl

@[simp] theorem resetInput_keyLen (s : State) : (resetInput s).keyLen = 0 := rfl

@[simp] theorem resetInput_ivAddr (s : State) : (resetInput s).ivAddr = 0 := rfl

@[simp] theorem resetInput_ivLen (s : State) : (resetInput s).ivLen = 0 := rfl

@[simp] theorem resetInput_dstAddr (s : State) : (resetInput s).dstAddr = 0 := rfl

@[simp] theorem resetInput_resLen (s : State) : (resetInput s).resLen = 0 := rfl

@[simp] theorem resetInput_errExp (s : State) : (resetInput s).errExp = 0 := rfl

@[simp] theorem resetInput_errAct (s : State) : (resetInput s).errAct = 0 := rfl

@[simp] theorem resetInput_cls (s : State) : (resetInput s).cls = Cls.zero := rfl

@[simp] theorem resetInput_clsSize (s : State) : (resetInput s).clsSize = 0 := rfl

@[simp] theorem resetInput_pending (s : State) : (resetInput s).pending = none := rfl

@[simp] theorem resetInput_keyBuf (s : State) : (resetInput s).keyBuf = none := rfl

@[simp] theorem resetInput_ivBuf (s : State) : (resetInput s).ivBuf = none := rfl

@[simp] theorem resetInput_keySched (s : State) : (resetInput s).keySched = none := rfl

@[simp] theorem resetInput_prev (s : State) : (resetInput s).prev = none := rfl

@[simp] theorem resetInput_mem (s : State) :
    (resetInput s).mem = if s.decryptInFlight then memWrite s.mem s.dstAddr.toNat (drawBytes s.draws s.dstBytesInMemory) else s.mem := rfl

@[simp] theorem resetInput_draws (s : State) :
    (resetInput s).draws = if s.decryptInFlight then s.draws + s.dstBytesInMemory else s.draws := rfl

@[simp] theorem resetInput_script (s : State) : (resetInput s).script = s.script := rfl

@[simp] theorem resetInput_schedule (s : State) : (resetInput s).schedule = s.schedule := rfl

@[simp] theorem resetInput_reads (s : State) : (resetInput s).reads = s.reads := rfl

/-! ### `State.reset` -/

@[simp] theorem reset_params : State.reset.params = Config.params := rfl

@[simp] theorem reset_irqEn : State.reset.irqEn = false := rfl

@[simp] theorem reset_status :
    State.reset.status = { busy := false, done := false, err := false, ovr := false, code := .none, field := .none } := rfl

@[simp] theorem reset_cls : State.reset.cls = Cls.zero := rfl

@[simp] theorem reset_pending : State.reset.pending = none := rfl

@[simp] theorem reset_keyBuf : State.reset.keyBuf = none := rfl

@[simp] theorem reset_ivBuf : State.reset.ivBuf = none := rfl

@[simp] theorem reset_keySched : State.reset.keySched = none := rfl

@[simp] theorem reset_prev : State.reset.prev = none := rfl

@[simp] theorem reset_mem : State.reset.mem = [] := rfl

@[simp] theorem reset_draws : State.reset.draws = 0 := rfl

@[simp] theorem reset_script : State.reset.script = [] := rfl

@[simp] theorem reset_schedule : State.reset.schedule = [] := rfl

@[simp] theorem reset_reads : State.reset.reads = [] := rfl

@[simp] theorem reset_srcAddr : State.reset.srcAddr = 0 := rfl

@[simp] theorem reset_srcLen : State.reset.srcLen = 0 := rfl

@[simp] theorem reset_keyAddr : State.reset.keyAddr = 0 := rfl

@[simp] theorem reset_keyLen : State.reset.keyLen = 0 := rfl

@[simp] theorem reset_ivAddr : State.reset.ivAddr = 0 := rfl

@[simp] theorem reset_ivLen : State.reset.ivLen = 0 := rfl

@[simp] theorem reset_dstAddr : State.reset.dstAddr = 0 := rfl

@[simp] theorem reset_resLen : State.reset.resLen = 0 := rfl

@[simp] theorem reset_errExp : State.reset.errExp = 0 := rfl

@[simp] theorem reset_errAct : State.reset.errAct = 0 := rfl

@[simp] theorem reset_clsSize : State.reset.clsSize = 0 := rfl

end Sys2Proof.Machine
end

