-- ==== Sys2Proof/Laws/Memory.lean ====
section
/-! SUPPORT. The laws of the data memory: a read after a write, the frame of a write, the canonical form, and that two
memories in canonical form that read alike are equal. -/
namespace Sys2Proof.Machine

/-! ### Reading after writing -/

theorem readByte_insertCell (a : Nat) (v : Byte) (m : Memory) (x : Nat) (h : ∀ c ∈ m, c.1 ≠ a) :
    readByte (insertCell a v m) x = if x = a then v else readByte m x := by
  induction m with
  | nil => simp only [insertCell, readByte, eq_comm]
  | cons c m ih =>
    have hc : c.1 ≠ a := h c (by simp)
    have hm : ∀ d ∈ m, d.1 ≠ a := fun d hd => h d (by simp [hd])
    unfold insertCell
    split
    · simp only [readByte, eq_comm]
    · simp only [readByte, ih hm]
      by_cases h1 : c.1 = x
      · subst h1; simp [hc]
      · simp [h1]

theorem readByte_erase (m : Memory) (a x : Nat) :
    readByte (m.filter (fun c => c.1 != a)) x = if x = a then unlistedByte a else readByte m x := by
  induction m with
  | nil => by_cases h : x = a <;> simp [readByte, h]
  | cons c m ih =>
    by_cases hc : c.1 = a
    · have : (c.1 != a) = false := by simp [hc]
      rw [List.filter_cons, this]
      simp only [Bool.false_eq_true, ↓reduceIte, ih, readByte]
      by_cases hx : x = a
      · simp [hx]
      · simp [hx, hc, Ne.symm hx]
    · have : (c.1 != a) = true := by simp [hc]
      rw [List.filter_cons, this]
      simp only [↓reduceIte, readByte, ih]
      by_cases hx : c.1 = x
      · subst hx; simp [hc]
      · simp [hx]

/-- A read after a write of one byte. -/
theorem readByte_writeByte (m : Memory) (a : Nat) (v : Byte) (x : Nat) :
    readByte (writeByte m a v) x = if x = a then v else readByte m x := by
  unfold writeByte
  by_cases hv : v = unlistedByte a
  · simp only [hv, ↓reduceIte, readByte_erase]
  · simp only [hv, ↓reduceIte]
    rw [readByte_insertCell _ _ _ _ (by simp), readByte_erase]
    by_cases hx : x = a <;> simp [hx]

/-- A read after a write of a byte sequence. -/
theorem readByte_memWrite (m : Memory) (addr : Nat) (bs : List Byte) (x : Nat) :
    readByte (memWrite m addr bs) x =
      if addr ≤ x ∧ x < addr + bs.length then bs.getD (x - addr) 0 else readByte m x := by
  induction bs generalizing m addr with
  | nil => simp [memWrite]
  | cons b bs ih =>
    simp only [memWrite, ih, readByte_writeByte, List.length_cons]
    by_cases h1 : x = addr
    · subst h1; simp
    · by_cases h2 : addr + 1 ≤ x ∧ x < addr + 1 + bs.length
      · have h3 : x - addr = (x - (addr + 1)) + 1 := by omega
        rw [if_pos h2, if_pos (by omega), h3, List.getD_cons_succ]
      · rw [if_neg h2, if_neg h1, if_neg (by omega)]

/-- A write leaves every byte outside it alone. -/
theorem readByte_memWrite_outside (m : Memory) (addr : Nat) (bs : List Byte) (x : Nat)
    (h : x < addr ∨ addr + bs.length ≤ x) : readByte (memWrite m addr bs) x = readByte m x := by
  rw [readByte_memWrite, if_neg (by omega)]

@[simp] theorem memRead_length (m : Memory) (addr n : Nat) : (memRead m addr n).length = n := by
  induction n generalizing addr with
  | zero => rfl
  | succ n ih => simp [memRead, ih]

theorem memRead_getD (m : Memory) (addr n i : Nat) (h : i < n) : (memRead m addr n).getD i 0 = readByte m (addr + i) := by
  induction n generalizing addr i with
  | zero => omega
  | succ n ih =>
    cases i with
    | zero => rfl
    | succ i => rw [memRead, List.getD_cons_succ, ih _ _ (by omega)]; congr 1; omega

/-- A region reads the same in two memories that read the same at each of its bytes. -/
theorem memRead_congr (m m' : Memory) (addr n : Nat)
    (h : ∀ a, addr ≤ a → a < addr + n → readByte m a = readByte m' a) : memRead m addr n = memRead m' addr n := by
  induction n generalizing addr with
  | zero => rfl
  | succ n ih =>
    simp only [memRead]
    rw [h addr (by omega) (by omega), ih (addr + 1) (fun a h1 h2 => h a (by omega) (by omega))]

/-- Reading back a byte sequence just written. -/
theorem memRead_memWrite (m : Memory) (addr : Nat) (bs : List Byte) :
    memRead (memWrite m addr bs) addr bs.length = bs := by
  apply List.ext_getElem (by simp)
  intro i h1 h2
  have h3 := memRead_getD (memWrite m addr bs) addr bs.length i h2
  rw [readByte_memWrite, if_pos (by omega), Nat.add_sub_cancel_left] at h3
  simpa [List.getD_eq_getElem?_getD, h1, h2] using h3

@[simp] theorem drawBytes_length (k n : Nat) : (drawBytes k n).length = n := by
  induction n generalizing k with
  | zero => rfl
  | succ n ih => simp [drawBytes, ih]

/-! ### The canonical form -/

theorem insertCell_mem (a : Nat) (v : Byte) (m : Memory) (c : Host.Cell) :
    c ∈ insertCell a v m ↔ c = (a, v) ∨ c ∈ m := by
  induction m with
  | nil => simp [insertCell]
  | cons d m ih =>
    unfold insertCell
    split
    · simp
    · simp only [List.mem_cons, ih]; tauto

theorem insertCell_sorted (a : Nat) (v : Byte) (m : Memory) (hs : m.Pairwise (fun c d => c.1 < d.1))
    (h : ∀ c ∈ m, c.1 ≠ a) : (insertCell a v m).Pairwise (fun c d => c.1 < d.1) := by
  induction m with
  | nil => simp [insertCell]
  | cons c m ih =>
    obtain ⟨hc, hm⟩ := List.pairwise_cons.1 hs
    have hca : c.1 ≠ a := h c (by simp)
    unfold insertCell
    split
    · rename_i hlt
      refine List.pairwise_cons.2 ⟨?_, hs⟩
      intro d hd
      rcases List.mem_cons.1 hd with rfl | hd
      · exact hlt
      · exact Nat.lt_trans hlt (hc d hd)
    · refine List.pairwise_cons.2 ⟨?_, ih hm (fun d hd => h d (by simp [hd]))⟩
      intro d hd
      rcases (insertCell_mem a v m d).1 hd with rfl | hd
      · show c.1 < a; omega
      · exact hc d hd

/-- Writing a byte keeps the canonical form. -/
theorem writeByte_wf (m : Memory) (a : Nat) (v : Byte) (h : Memory.wf m) : Memory.wf (writeByte m a v) := by
  obtain ⟨hs, hu⟩ := h
  have hs' := hs.filter (fun c => c.1 != a)
  unfold writeByte
  by_cases hv : v = unlistedByte a
  · simp only [hv, ↓reduceIte]
    exact ⟨hs', fun c hc => hu c (List.mem_filter.1 hc).1⟩
  · simp only [hv, ↓reduceIte]
    refine ⟨insertCell_sorted a v _ hs' (by simp), ?_⟩
    intro c hc
    rcases (insertCell_mem a v _ c).1 hc with rfl | hc
    · exact hv
    · exact hu c (List.mem_filter.1 hc).1

/-- Writing a byte sequence keeps the canonical form. -/
theorem memWrite_wf (m : Memory) (addr : Nat) (bs : List Byte) (h : Memory.wf m) : Memory.wf (memWrite m addr bs) := by
  induction bs generalizing m addr with
  | nil => exact h
  | cons b bs ih => exact ih _ _ (writeByte_wf m addr b h)

/-- A listed address after a write is the written one or was listed before. -/
theorem writeByte_keys (m : Memory) (a : Nat) (v : Byte) (c : Host.Cell) (h : c ∈ writeByte m a v) :
    c.1 = a ∨ c ∈ m := by
  unfold writeByte at h
  by_cases hv : v = unlistedByte a
  · simp only [hv, ↓reduceIte] at h
    exact .inr (List.mem_filter.1 h).1
  · simp only [hv, ↓reduceIte] at h
    rcases (insertCell_mem a v _ c).1 h with rfl | h
    · exact .inl rfl
    · exact .inr (List.mem_filter.1 h).1

theorem memWrite_keys (m : Memory) (addr : Nat) (bs : List Byte) (c : Host.Cell) (h : c ∈ memWrite m addr bs) :
    (addr ≤ c.1 ∧ c.1 < addr + bs.length) ∨ c ∈ m := by
  induction bs generalizing m addr with
  | nil => exact .inr h
  | cons b bs ih =>
    rcases ih _ _ h with h | h
    · left; simp only [List.length_cons]; omega
    · rcases writeByte_keys m addr b c h with h | h
      · left; simp only [List.length_cons]; omega
      · exact .inr h

end Sys2Proof.Machine
end

