-- ==== Sys2Proof/Laws/Operands.lean ====
section
/-! SUPPORT. The checks on operands, each said once: when it passes, and what it answers when it does not. -/
namespace Sys2Proof.Machine

/-- Byte `a` lies in a region. -/
theorem Region.contains_iff (r : Region) (a : Nat) : r.contains a = true ↔ r.addr ≤ a ∧ a < r.addr + r.len := by
  simp [Region.contains]

theorem Region.not_contains_iff (r : Region) (a : Nat) : r.contains a = false ↔ a < r.addr ∨ r.addr + r.len ≤ a := by
  rw [← Bool.not_eq_true, Region.contains_iff]; omega

/-- A region is valid when it is empty or ends inside the data memory (R43). -/
theorem Region.valid_iff (r : Region) (n : Nat) : r.valid n = true ↔ r.len = 0 ∨ r.addr + r.len ≤ n := by
  simp [Region.valid]

/-- Two regions overlap when some byte lies in both (R43). -/
theorem Region.overlaps_iff (r t : Region) :
    r.overlaps t = true ↔ r.len ≠ 0 ∧ t.len ≠ 0 ∧ r.addr < t.addr + t.len ∧ t.addr < r.addr + r.len := by
  simp [Region.overlaps, and_assoc]

/-- The overlap of non-empty regions, as a shared byte. -/
theorem Region.overlaps_iff_shared (r t : Region) :
    r.overlaps t = true ↔ ∃ a, r.contains a = true ∧ t.contains a = true := by
  rw [Region.overlaps_iff]
  simp only [Region.contains_iff]
  constructor
  · rintro ⟨h1, h2, h3, h4⟩
    exact ⟨max r.addr t.addr, by omega⟩
  · rintro ⟨a, h⟩
    omega

/-- When the Input Validator passes (R72). -/
theorem validateText_eq_none_iff (s : State) : validateText s = none ↔ s.TextsAccepted := by
  unfold validateText
  constructor
  · intro h
    by_cases h1 : s.keyLen = 0 <;> by_cases h2 : s.ivLen = 0 <;> by_cases h3 : s.srcLen = 0 <;>
      by_cases h4 : s.srcLen.toNat % 16 = 0 <;> simp_all
    exact ⟨h1, h2, h3, h4⟩
  · rintro ⟨h1, h2, h3, h4⟩
    rw [if_neg h1, if_neg h2, if_neg h3, if_neg (by simp [h4])]

theorem toNat_ne_zero {v : Word} (h : v ≠ 0) : v.toNat ≠ 0 := fun h' => h (BitVec.eq_of_toNat_eq h')

/-- When the region checks of a decrypt command pass (R44). -/
theorem decryptRegions_check_iff (s : State) (h : s.TextsAccepted) :
    regionsCheck s.memSize s.decryptRegions = none ↔ s.RegionsInside := by
  have hk := toNat_ne_zero h.key_nonempty
  have hi := toNat_ne_zero h.iv_nonempty
  have hs := toNat_ne_zero h.src_nonempty
  simp only [State.decryptRegions, regionsCheck, State.keyRegion, State.ivRegion, State.srcRegion, State.dstRegion]
  constructor
  · intro hc
    split at hc
    · rename_i h1
      split at hc
      · rename_i h2
        split at hc
        · rename_i h3
          split at hc
          · rename_i h4
            rw [Region.valid_iff] at h1 h2 h3 h4
            exact ⟨by simpa [hk] using h1, by simpa [hi] using h2, by simpa [hs] using h3, by simpa [hs] using h4⟩
          · cases hc
        · cases hc
      · cases hc
    · cases hc
  · rintro ⟨h1, h2, h3, h4⟩
    rw [if_pos ((Region.valid_iff _ _).2 (.inr h1)), if_pos ((Region.valid_iff _ _).2 (.inr h2)),
      if_pos ((Region.valid_iff _ _).2 (.inr h3)), if_pos ((Region.valid_iff _ _).2 (.inr h4))]

/-- When the overlap check passes (R45), given that no region is empty. -/
theorem overlapCheck_eq_none_iff (s : State) (h : s.TextsAccepted) : overlapCheck s = none ↔ s.DestinationApart := by
  have hk := toNat_ne_zero h.key_nonempty
  have hi := toNat_ne_zero h.iv_nonempty
  have hs := toNat_ne_zero h.src_nonempty
  unfold overlapCheck
  by_cases h1 : s.srcRegion.overlaps s.dstRegion = true
  · simp only [h1, ↓reduceIte, reduceCtorEq, false_iff]
    intro ha
    have := ha.src_apart
    rw [Region.overlaps_iff] at h1
    simp only [State.srcRegion, State.dstRegion] at h1
    omega
  by_cases h2 : s.keyRegion.overlaps s.dstRegion = true
  · simp only [h1, h2, ↓reduceIte, Bool.false_eq_true, reduceCtorEq, false_iff]
    intro ha
    have := ha.key_apart
    rw [Region.overlaps_iff] at h2
    simp only [State.keyRegion, State.dstRegion] at h2
    omega
  by_cases h3 : s.ivRegion.overlaps s.dstRegion = true
  · simp only [h1, h2, h3, ↓reduceIte, Bool.false_eq_true, reduceCtorEq, false_iff]
    intro ha
    have := ha.iv_apart
    rw [Region.overlaps_iff] at h3
    simp only [State.ivRegion, State.dstRegion] at h3
    omega
  simp only [h1, h2, h3, Bool.false_eq_true, ↓reduceIte, true_iff]
  rw [Region.overlaps_iff] at h1 h2 h3
  simp only [State.srcRegion, State.keyRegion, State.ivRegion, State.dstRegion] at h1 h2 h3
  exact ⟨by omega, by omega, by omega⟩

/-- When rows 1-6 of R71 all pass. -/
theorem decryptChecks_eq_none_iff (s : State) : decryptChecks s = none ↔ s.InputsAccepted := by
  unfold decryptChecks
  constructor
  · intro h
    split at h
    · cases h
    · rename_i hv
      have ht := (validateText_eq_none_iff s).1 hv
      split at h
      · cases h
      · rename_i hr
        exact ⟨ht, (decryptRegions_check_iff s ht).1 hr, (overlapCheck_eq_none_iff s ht).1 h⟩
  · rintro ⟨ht, hr, ha⟩
    rw [(validateText_eq_none_iff s).2 ht, (decryptRegions_check_iff s ht).2 hr]
    exact (overlapCheck_eq_none_iff s ht).2 ha

/-- An error that is raised before the CBC stage: it has a code, and that is no late failure's. -/
def CmdError.early (e : CmdError) : Prop := e.code ≠ .none ∧ e.code.late = false

theorem validateText_early (s : State) (e : CmdError) (h : validateText s = some e) : e.early := by
  unfold validateText at h
  repeat' split at h
  all_goals cases h
  all_goals exact ⟨by simp, rfl⟩

theorem regionsCheck_early (n : Nat) (l : List (ErrField × Region)) (e : CmdError) (h : regionsCheck n l = some e) :
    e.early ∧ e.code = .busError ∧ e.exp = 0 ∧ ∃ p ∈ l, e.field = p.1 ∧ e.act = BitVec.ofNat 32 p.2.addr := by
  induction l with
  | nil => cases h
  | cons p l ih =>
    simp only [regionsCheck] at h
    split at h
    · obtain ⟨h1, h2, h3, q, hq, h4⟩ := ih h
      exact ⟨h1, h2, h3, q, by simp [hq], h4⟩
    · cases h
      exact ⟨⟨by simp, rfl⟩, rfl, rfl, p, by simp, rfl, rfl⟩

theorem overlapCheck_early (s : State) (e : CmdError) (h : overlapCheck s = some e) : e.early := by
  unfold overlapCheck at h
  repeat' split at h
  all_goals cases h
  all_goals exact ⟨by simp, rfl⟩

theorem decryptChecks_early (s : State) (e : CmdError) (h : decryptChecks s = some e) : e.early := by
  unfold decryptChecks at h
  split at h
  · rename_i hv
    cases h
    exact validateText_early s _ hv
  · split at h
    · rename_i hr
      cases h
      exact (regionsCheck_early _ _ _ hr).1
    · exact overlapCheck_early s e h

/-- CBC_Init passes exactly on the lengths 32 and 16 (R109). -/
theorem cbcInit_eq_none_iff (k v : Nat) : cbcInit k v = none ↔ k = 32 ∧ v = 16 := by
  unfold cbcInit
  by_cases h1 : k = 32 <;> by_cases h2 : v = 16 <;> simp [h1, h2]

theorem cbcInit_early (k v : Nat) (e : CmdError) (h : cbcInit k v = some e) : e.early := by
  unfold cbcInit at h
  repeat' split at h
  all_goals cases h
  all_goals exact ⟨by simp, rfl⟩

end Sys2Proof.Machine
end

