-- ==== Sys2Proof/Laws/Commands.lean ====
section
/-! SUPPORT. The commands, said once: what the key and the IV are, how the pipeline ends, and the four shapes that a
completion step can have (`exec_cases`), from which the frames and the invariants follow. -/
namespace Sys2Proof.Machine

/-- DECRYPT and DECRYPT_CLASSIFY have a key and an IV exactly when both texts decode to the right lengths. -/
theorem textKeyIv_eq_ok_iff (s : State) (k : KeyIv) : textKeyIv s = .ok k ↔ s.TextsDecodeTo k.key k.iv := by
  unfold textKeyIv State.TextsDecodeTo
  simp only [State.regionBytes, State.keyRegion, State.ivRegion]
  cases h1 : b64decode s.params.b64StrictTail (memRead s.mem s.keyAddr.toNat s.keyLen.toNat) with
  | none => simp
  | some key =>
    cases h2 : b64decode s.params.b64StrictTail (memRead s.mem s.ivAddr.toNat s.ivLen.toNat) with
    | none => simp
    | some iv =>
      obtain ⟨k1, k2⟩ := k
      by_cases hk : key.length = 32 <;> by_cases hi : iv.length = 16 <;> simp [hk, hi, cbcInit]
      · rintro rfl rfl; exact ⟨hk, hi⟩
      · rintro rfl rfl _; exact hi
      · rintro rfl rfl h; exact absurd h hk
      · rintro rfl rfl h; exact absurd h hk

/-- DECRYPT_RAW has a key and an IV exactly when the lengths are right. -/
theorem rawKeyIv_eq_ok_iff (s : State) (k : KeyIv) : rawKeyIv s = .ok k ↔ s.DecryptsWith k.key k.iv .decryptRaw := by
  unfold rawKeyIv State.DecryptsWith
  cases h : cbcInit s.keyLen.toNat s.ivLen.toNat with
  | none =>
    obtain ⟨k1, k2⟩ := k
    have := (cbcInit_eq_none_iff _ _).1 h
    simp only [this, Except.ok.injEq, KeyIv.mk.injEq, true_and]
    exact and_congr eq_comm eq_comm
  | some e =>
    simp only [reduceCtorEq, false_iff]
    rintro ⟨h1, h2, -⟩
    rw [h1, h2] at h
    cases h

theorem textKeyIv_early (s : State) (e : CmdError) (h : textKeyIv s = .error e) : e.early := by
  unfold textKeyIv at h
  repeat' split at h
  all_goals try (cases h; exact ⟨by simp, rfl⟩)
  · rename_i h'
    cases h
    exact cbcInit_early _ _ _ h'
  · cases h

theorem rawKeyIv_early (s : State) (e : CmdError) (h : rawKeyIv s = .error e) : e.early := by
  unfold rawKeyIv at h
  split at h
  · rename_i h'
    cases h
    exact cbcInit_early _ _ _ h'
  · cases h

/-- The late failures. -/
def paddingError : CmdError := { code := .paddingValidationFailure, field := .none, exp := 0, act := 0 }

def emptyError : CmdError := { code := .emptyPlaintextAfterUnpad, field := .none, exp := 0, act := 0 }

/-- How the pipeline ends: an early error with the state as it was; a late failure; or the plaintext. -/
theorem decryptPipeline_cases (keys : Except CmdError KeyIv) (s : State) (hk : ∀ e, keys = .error e → e.early) :
    (∃ e, e.early ∧ decryptPipeline keys s = .failed e s ∧ ∀ k, ¬(s.InputsAccepted ∧ keys = .ok k)) ∨
    (∃ k e, s.InputsAccepted ∧ keys = .ok k ∧ decryptPipeline keys s = .failed e (cipherStage k s) ∧
      (e = paddingError ∧ pkcs7Unpad (cbcDecrypt s.ciphertext k.key k.iv) = .padFail ∨
       e = emptyError ∧ pkcs7Unpad (cbcDecrypt s.ciphertext k.key k.iv) = .empty)) ∨
    (∃ k r, s.InputsAccepted ∧ keys = .ok k ∧ pkcs7Unpad (cbcDecrypt s.ciphertext k.key k.iv) = .plaintext r ∧
      decryptPipeline keys s = .plaintext r { cipherStage k s with resLen := BitVec.ofNat 32 r.length }) := by
  unfold decryptPipeline
  cases hc : decryptChecks s with
  | some e =>
    left
    refine ⟨e, decryptChecks_early s e hc, rfl, ?_⟩
    rintro k ⟨ha, -⟩
    rw [(decryptChecks_eq_none_iff s).2 ha] at hc
    cases hc
  | none =>
    have ha := (decryptChecks_eq_none_iff s).1 hc
    cases hkeys : keys with
    | error e => exact .inl ⟨e, hk e hkeys, rfl, by rintro k ⟨-, h⟩; cases h⟩
    | ok k =>
      right
      simp only [cbcAndUnpad]
      have hct : s.regionBytes s.srcRegion = s.ciphertext := rfl
      rw [hct]
      cases hu : pkcs7Unpad (cbcDecrypt s.ciphertext k.key k.iv) with
      | padFail => exact .inl ⟨k, _, ha, rfl, rfl, .inl ⟨rfl, hu⟩⟩
      | empty => exact .inl ⟨k, _, ha, rfl, rfl, .inr ⟨rfl, hu⟩⟩
      | plaintext r => exact .inr ⟨k, r, ha, rfl, hu, rfl⟩

/-- The state a successful decrypt command leaves, before the completion step ends (R73, R74). -/
def decrypted (i : Instr) (k : KeyIv) (r : List Byte) (s : State) : State :=
  { cipherStage k s with
    resLen := BitVec.ofNat 32 r.length
    cls := if i = .decryptClassify then Cls.ofTag (sniff r) else s.cls
    clsSize := if i = .decryptClassify then BitVec.ofNat 32 r.length else s.clsSize }

/-- The state a successful CLASSIFY leaves, before the completion step ends (R123). -/
def classified (s : State) : State := { s with cls := Cls.ofTag (sniff s.ciphertext), clsSize := s.srcLen }

/-- CLASSIFY passes its region check (R123). -/
theorem classifyRegions_check_iff (s : State) :
    regionsCheck s.memSize s.classifyRegions = none ↔ s.srcLen = 0 ∨ s.srcAddr.toNat + s.srcLen.toNat ≤ s.memSize := by
  simp only [State.classifyRegions, regionsCheck, State.srcRegion]
  have h0 : s.srcLen = 0 ↔ s.srcLen.toNat = 0 := ⟨fun h => by rw [h]; rfl, fun h => BitVec.eq_of_toNat_eq h⟩
  split
  · rename_i h
    rw [Region.valid_iff] at h
    exact ⟨fun _ => by rw [h0]; exact h, fun _ => rfl⟩
  · rename_i h
    rw [Region.valid_iff] at h
    exact ⟨(nomatch ·), fun hs => absurd (by rw [h0] at hs; exact hs) h⟩

/-- THE FOUR SHAPES OF A COMPLETION STEP: an early error; a late failure of a decrypt command; a successful decrypt
command; a successful CLASSIFY. -/
theorem exec_cases {i : Instr} {s t : State} (h : exec i s = .next t) :
    (∃ e, e.early ∧ t = raiseCmdError e s ∧ (∀ key iv, ¬(s.InputsAccepted ∧ s.DecryptsWith key iv i)) ∧
      (i = .classify → s.srcLen ≠ 0 ∧ s.memSize < s.srcAddr.toNat + s.srcLen.toNat)) ∨
    (i ≠ .classify ∧ s.InputsAccepted ∧ ∃ k e, s.DecryptsWith k.key k.iv i ∧ t = raiseCmdError e (cipherStage k s) ∧
      (e = paddingError ∧ pkcs7Unpad (cbcDecrypt s.ciphertext k.key k.iv) = .padFail ∨
       e = emptyError ∧ pkcs7Unpad (cbcDecrypt s.ciphertext k.key k.iv) = .empty)) ∨
    (i ≠ .classify ∧ s.InputsAccepted ∧ ∃ k r, s.DecryptsWith k.key k.iv i ∧
      pkcs7Unpad (cbcDecrypt s.ciphertext k.key k.iv) = .plaintext r ∧ t = finishOk (decrypted i k r s)) ∨
    (i = .classify ∧ (s.srcLen = 0 ∨ s.srcAddr.toNat + s.srcLen.toNat ≤ s.memSize) ∧ t = finishOk (classified s)) := by
  cases i with
  | classify =>
    simp only [exec, execClassify] at h
    split at h
    · rename_i e hc
      left
      cases h
      refine ⟨e, (regionsCheck_early _ _ _ hc).1, rfl, by simp [State.DecryptsWith], fun _ => ?_⟩
      have := (classifyRegions_check_iff s).not.1 (by simp [hc])
      push Not at this
      exact this
    · rename_i hc
      cases h
      exact .inr (.inr (.inr ⟨rfl, (classifyRegions_check_iff s).1 hc, rfl⟩))
  | decrypt =>
    simp only [exec, execDecrypt] at h
    have hko : ∀ k, textKeyIv s = .ok k ↔ s.DecryptsWith k.key k.iv .decrypt := textKeyIv_eq_ok_iff s
    rcases decryptPipeline_cases (textKeyIv s) s (textKeyIv_early s) with
      ⟨e, he, hp, hn⟩ | ⟨k, e, ha, hk, hp, hu⟩ | ⟨k, r, ha, hk, hu, hp⟩ <;> rw [hp] at h <;> cases h
    · exact .inl ⟨e, he, rfl, fun key iv hd => hn ⟨key, iv⟩ ⟨hd.1, (hko _).2 hd.2⟩, by simp⟩
    · exact .inr (.inl ⟨by simp, ha, k, e, (hko k).1 hk, rfl, hu⟩)
    · exact .inr (.inr (.inl ⟨by simp, ha, k, r, (hko k).1 hk, hu, rfl⟩))
  | decryptRaw =>
    simp only [exec, execDecryptRaw] at h
    have hko : ∀ k, rawKeyIv s = .ok k ↔ s.DecryptsWith k.key k.iv .decryptRaw := rawKeyIv_eq_ok_iff s
    rcases decryptPipeline_cases (rawKeyIv s) s (rawKeyIv_early s) with
      ⟨e, he, hp, hn⟩ | ⟨k, e, ha, hk, hp, hu⟩ | ⟨k, r, ha, hk, hu, hp⟩ <;> rw [hp] at h <;> cases h
    · exact .inl ⟨e, he, rfl, fun key iv hd => hn ⟨key, iv⟩ ⟨hd.1, (hko _).2 hd.2⟩, by simp⟩
    · exact .inr (.inl ⟨by simp, ha, k, e, (hko k).1 hk, rfl, hu⟩)
    · exact .inr (.inr (.inl ⟨by simp, ha, k, r, (hko k).1 hk, hu, rfl⟩))
  | decryptClassify =>
    simp only [exec, execDecryptClassify] at h
    have hko : ∀ k, textKeyIv s = .ok k ↔ s.DecryptsWith k.key k.iv .decryptClassify := textKeyIv_eq_ok_iff s
    rcases decryptPipeline_cases (textKeyIv s) s (textKeyIv_early s) with
      ⟨e, he, hp, hn⟩ | ⟨k, e, ha, hk, hp, hu⟩ | ⟨k, r, ha, hk, hu, hp⟩ <;> rw [hp] at h <;> cases h
    · exact .inl ⟨e, he, rfl, fun key iv hd => hn ⟨key, iv⟩ ⟨hd.1, (hko _).2 hd.2⟩, by simp⟩
    · exact .inr (.inl ⟨by simp, ha, k, e, (hko k).1 hk, rfl, hu⟩)
    · exact .inr (.inr (.inl ⟨by simp, ha, k, r, (hko k).1 hk, hu, rfl⟩))

/-- Every command completes: `exec` never faults and never refuses. -/
theorem exec_next (i : Instr) (s : State) : ∃ t, exec i s = .next t := by
  cases i with
  | classify =>
    simp only [exec, execClassify]
    cases regionsCheck s.memSize s.classifyRegions with
    | none => exact ⟨_, rfl⟩
    | some e => exact ⟨_, rfl⟩
  | decrypt => exact ⟨_, rfl⟩
  | decryptClassify => exact ⟨_, rfl⟩
  | decryptRaw => exact ⟨_, rfl⟩

/-- The key and the IV of a command are determined. -/
theorem decryptsWith_unique {s : State} {i : Instr} {key iv key' iv' : List Byte} (h : s.DecryptsWith key iv i)
    (h' : s.DecryptsWith key' iv' i) : key = key' ∧ iv = iv' := by
  cases i with
  | classify => exact h.elim
  | decryptRaw => exact ⟨h.2.2.1.trans h'.2.2.1.symm, h.2.2.2.trans h'.2.2.2.symm⟩
  | decrypt => exact ⟨Option.some.inj (h.1.symm.trans h'.1), Option.some.inj (h.2.1.symm.trans h'.2.1)⟩
  | decryptClassify => exact ⟨Option.some.inj (h.1.symm.trans h'.1), Option.some.inj (h.2.1.symm.trans h'.2.1)⟩

end Sys2Proof.Machine
end

