-- ==== Sys2Proof/Laws/Host.lean ====
section
/-! SUPPORT. The HOST's moves, said once: what a register write can do, what a HOST access can do. -/
namespace Sys2Proof.Machine

@[simp] theorem ofOffset_offset (r : Reg) : Reg.ofOffset r.offset = some r := by cases r <;> rfl

@[simp] theorem windowAccessWf_offset (r : Reg) : windowAccessWf 32 r.offset = true := by cases r <;> rfl

/-- An aligned offset is that of its register, or reserved (R15, R17). -/
theorem ofOffset_aligned : ∀ off : BitVec 8, off.toNat % 4 = 0 →
    (Reg.ofOffset off).elim (decide (0x40 ≤ off.toNat)) (fun r => decide (off = r.offset)) = true := by decide +kernel

theorem ofOffset_reserved : ∀ off : BitVec 8, 0x40 ≤ off.toNat → Reg.ofOffset off = none := by decide +kernel

theorem windowAccessWf_iff (bits : Nat) (off : BitVec 8) :
    windowAccessWf bits off = true ↔ bits = 32 ∧ off.toNat % 4 = 0 := by
  simp [windowAccessWf]

/-- A well-formed write is a write of a named register or of a reserved offset. -/
theorem writeOffset_of_offset (s : State) (r : Reg) (v : Word) : s.writeOffset r.offset v = s.writeReg r v := by
  simp [State.writeOffset]

theorem readOffset_of_offset (s : State) (r : Reg) : s.readOffset r.offset = s.regWord r := by
  simp [State.readOffset]

theorem hostAccess_regWrite (s : State) (r : Reg) (v : Word) :
    hostAccess (.regWrite 32 r.offset v) s = .next (s.writeReg r v) := by
  simp [hostAccess, writeOffset_of_offset]

theorem hostAccess_regRead (s : State) (r : Reg) :
    hostAccess (.regRead 32 r.offset) s = .next (s.observe (.reg r.offset (s.regWord r))) := by
  simp [hostAccess, hostRegRead, readOffset_of_offset]

/-- The operand registers (R27-R30). -/
def Reg.isOperand : Reg → Bool
  | .srcAddr | .srcLen | .keyAddr | .keyLen | .ivAddr | .ivLen | .dstAddr => true
  | _ => false

/-- An operand register takes a value. -/
def setOperand (r : Reg) (v : Word) (s : State) : State :=
  match r with
  | .srcAddr => { s with srcAddr := v }
  | .srcLen => { s with srcLen := v }
  | .keyAddr => { s with keyAddr := v }
  | .keyLen => { s with keyLen := v }
  | .ivAddr => { s with ivAddr := v }
  | .ivLen => { s with ivLen := v }
  | .dstAddr => { s with dstAddr := v }
  | _ => s

/-- What a register write can do: nothing; set `IRQ_EN`; clear bits of `STATUS`; launch; be turned away with `OVR` set;
set an operand register. -/
theorem writeReg_cases (s : State) (r : Reg) (v : Word) :
    (s.writeReg r v = s) ∨
    (r = .ctrl ∧ s.writeReg r v = { s with irqEn := v.getLsbD 0 }) ∨
    (r = .status ∧ s.writeReg r v = { s with status := s.status.writeOneToClear v }) ∨
    (r = .cmd ∧ s.status.busy = false ∧ s.writeReg r v = launch v s) ∨
    (s.status.busy = true ∧ (r = .cmd ∨ r.isOperand = true) ∧ s.writeReg r v = s.overrun) ∨
    (s.status.busy = false ∧ r.isOperand = true ∧ s.writeReg r v = setOperand r v s) := by
  cases hb : s.status.busy <;> cases r <;>
    simp [State.writeReg, State.unlessBusy, hb, Reg.isOperand, setOperand]

/-- What a HOST move that goes on can have done. -/
theorem hostAccess_cases {op : HostOp} {s t : State} (h : hostAccess op s = .next t) :
    (∃ r v, op = .regWrite 32 r.offset v ∧ t = s.writeReg r v) ∨
    (∃ x, t = s.observe x) ∨
    (∃ x, op = .waitDone ∧ s.status.done = false ∧ t = { s.observe x with script := .waitDone :: s.script }) ∨
    (∃ addr b, op = .memWrite addr b ∧ addr.toNat < s.memSize ∧ s.writeRaces addr.toNat = false ∧
      t = { s with mem := writeByte s.mem addr.toNat b }) ∨
    (op = .reset ∧ t = resetInput s) ∨
    t = s := by
  cases op with
  | regWrite bits off v =>
    simp only [hostAccess] at h
    split at h
    · rename_i hw
      obtain ⟨rfl, ha⟩ := (windowAccessWf_iff bits off).1 hw
      cases h
      have := ofOffset_aligned off ha
      cases hr : Reg.ofOffset off with
      | none => right; right; right; right; right; simp [State.writeOffset, hr]
      | some r =>
        rw [hr] at this
        simp only [Option.elim_some, decide_eq_true_eq] at this
        exact .inl ⟨r, v, by rw [← this], by rw [this, writeOffset_of_offset]⟩
    · cases h
  | regRead bits off =>
    simp only [hostAccess] at h
    split at h
    · cases h; exact .inr (.inl ⟨_, rfl⟩)
    · cases h
  | waitDone =>
    simp only [hostAccess, hostPoll] at h
    split at h
    · cases h; exact .inr (.inl ⟨_, rfl⟩)
    · rename_i hd
      cases h
      exact .inr (.inr (.inl ⟨_, rfl, by simpa using hd, rfl⟩))
  | memWrite addr b =>
    simp only [hostAccess, hostMemWrite] at h
    split at h
    · cases h
    · rename_i h1
      split at h
      · cases h
      · rename_i h2
        cases h
        exact .inr (.inr (.inr (.inl ⟨addr, b, rfl, by omega, by simpa using h2, rfl⟩)))
  | memRead addr =>
    simp only [hostAccess, hostMemRead] at h
    split at h
    · cases h
    · split at h
      · cases h
      · cases h; exact .inr (.inl ⟨_, rfl⟩)
  | reset =>
    cases h
    exact .inr (.inr (.inr (.inr (.inl ⟨rfl, rfl⟩))))

end Sys2Proof.Machine
end

