-- ==== Sys2Proof/Laws/PerInstr.lean ====
section
/-! SUPPORT. Statements about every instruction, one lemma per constructor. -/
namespace Sys2Proof.Laws

/-- `RoundTrip`: an instruction is well formed, its word holds the opcode of the map in its low four bits and nothing above
them (R56, R58), and the decoder reads that word, numbered as the opcode table numbers it, as the instruction. -/
def RoundTrip.Statement (i : Instr) : Prop :=
  i.wf = true ∧ opcodeField (encode i) = i.opcode ∧ rsvdField (encode i) = 0 ∧
    decodeTableWord 32 (encode i).toNat = some i

theorem RoundTrip.decrypt : RoundTrip.Statement .decrypt := by unfold RoundTrip.Statement; decide

theorem RoundTrip.classify : RoundTrip.Statement .classify := by unfold RoundTrip.Statement; decide

theorem RoundTrip.decryptClassify : RoundTrip.Statement .decryptClassify := by unfold RoundTrip.Statement; decide

theorem RoundTrip.decryptRaw : RoundTrip.Statement .decryptRaw := by unfold RoundTrip.Statement; decide

end Sys2Proof.Laws
end

