-- ==== Sys2Proof/Laws/Stages.lean ====
section
/-! SUPPORT. The stages of a decrypt command, said once: what the base64 decoder, the CBC stage and the Padding Remover
give back, and what the CBC stage leaves alone. -/
namespace Sys2Proof.Machine

/-! ### base64 -/

/-- A value for every character. -/
theorem b64Values_length {t : List Byte} {vs : List (BitVec 6)} (h : b64Values t = some vs) : vs.length = t.length := by
  induction t generalizing vs with
  | nil => cases h; rfl
  | cons c t ih =>
    simp only [b64Values] at h
    split at h
    · rename_i h2; cases h; simp [ih h2]
    · cases h

/-- The value at a place is that of the character there. -/
theorem b64Values_getD {t : List Byte} {vs : List (BitVec 6)} (h : b64Values t = some vs) (j : Nat) (hj : j < t.length) :
    b64Value (t.getD j 0) = some (vs.getD j 0) := by
  induction t generalizing j vs with
  | nil => simp at hj
  | cons c t ih =>
    simp only [b64Values] at h
    split at h
    · rename_i h1 h2
      cases h
      cases j with
      | zero => simpa using h1
      | succ j => simp only [List.length_cons] at hj; simpa using ih h2 j (by omega)
    · cases h

/-- One character outside the alphabet is enough to fail (R89). -/
theorem b64Values_eq_none (t : List Byte) (j : Nat) (hj : j < t.length) (h : b64Value (t.getD j 0) = none) :
    b64Values t = none := by
  cases hv : b64Values t with
  | none => rfl
  | some vs => rw [b64Values_getD hv j hj] at h; cases h

/-- Three bytes for every four values (R90). -/
theorem b64Quanta_length (n : Nat) (vs : List (BitVec 6)) (h : vs.length = 4 * n) : (b64Quanta vs).length = 3 * n := by
  induction n generalizing vs with
  | zero =>
    have : vs = [] := List.eq_nil_of_length_eq_zero (by omega)
    subst this
    rfl
  | succ n ih =>
    match vs, h with
    | v0 :: v1 :: v2 :: v3 :: vs, h =>
      simp only [List.length_cons] at h
      simp only [b64Quanta, List.length_append, ih vs (by omega), b64Quantum, List.length_cons, List.length_nil]
      omega

/-- Characters of the alphabet have their values. -/
theorem b64Values_of_alphabet (t : List Byte) (h : ∀ i, i < t.length → b64Value (t.getD i 0) ≠ none) :
    ∃ vs, b64Values t = some vs := by
  induction t with
  | nil => exact ⟨[], rfl⟩
  | cons c t ih =>
    obtain ⟨vs, hv⟩ := ih (fun i hi => by simpa using h (i + 1) (by simpa using hi))
    obtain ⟨v, h0⟩ := Option.ne_none_iff_exists'.1 (by simpa using h 0 (by simp))
    exact ⟨v :: vs, by simp [b64Values, hv, h0]⟩

/-- The bytes of one quantum, as numbers (R90). -/
theorem b64Quantum_getD (v0 v1 v2 v3 : BitVec 6) (j : Nat) (hj : j < 3) :
    ((b64Quantum v0 v1 v2 v3).getD j 0).toNat =
      (v0.toNat * 2 ^ 18 + v1.toNat * 2 ^ 12 + v2.toNat * 2 ^ 6 + v3.toNat) / 2 ^ (16 - 8 * j) % 2 ^ 8 := by
  have hq : (v0 ++ v1 ++ v2 ++ v3 : BitVec 24).toNat =
      v0.toNat * 2 ^ 18 + v1.toNat * 2 ^ 12 + v2.toNat * 2 ^ 6 + v3.toNat := by
    simp only [BitVec.toNat_append]
    rw [← Nat.shiftLeft_add_eq_or_of_lt v1.isLt, ← Nat.shiftLeft_add_eq_or_of_lt v2.isLt,
      ← Nat.shiftLeft_add_eq_or_of_lt v3.isLt]
    simp only [Nat.shiftLeft_eq]
    omega
  rcases (show j = 0 ∨ j = 1 ∨ j = 2 by omega) with rfl | rfl | rfl <;>
    simp [b64Quantum, BitVec.extractLsb'_toNat, hq, Nat.shiftRight_eq_div_pow]

/-- The bytes of quantum `k` of a sequence of values (R90, R92). -/
theorem b64Quanta_getD (k : Nat) (vs : List (BitVec 6)) (j : Nat) (hj : j < 3) (h : 4 * k + 4 ≤ vs.length) :
    ((b64Quanta vs).getD (3 * k + j) 0).toNat =
      ((vs.getD (4 * k) 0).toNat * 2 ^ 18 + (vs.getD (4 * k + 1) 0).toNat * 2 ^ 12 + (vs.getD (4 * k + 2) 0).toNat * 2 ^ 6
        + (vs.getD (4 * k + 3) 0).toNat) / 2 ^ (16 - 8 * j) % 2 ^ 8 := by
  induction k generalizing vs with
  | zero =>
    match vs, h with
    | v0 :: v1 :: v2 :: v3 :: vs, _ =>
      have h3 : (b64Quantum v0 v1 v2 v3).length = 3 := rfl
      simp only [b64Quanta, Nat.mul_zero, Nat.zero_add]
      rw [List.getD_append _ _ _ _ (by omega), b64Quantum_getD _ _ _ _ j hj]
      rfl
  | succ k ih =>
    match vs, h with
    | v0 :: v1 :: v2 :: v3 :: vs, h =>
      simp only [List.length_cons] at h
      have h3 : (b64Quantum v0 v1 v2 v3).length = 3 := rfl
      simp only [b64Quanta]
      rw [List.getD_append_right _ _ _ _ (by omega), h3, show 3 * (k + 1) + j - 3 = 3 * k + j by omega, ih vs (by omega)]
      rfl

/-- At most two pad characters count (R86). -/
theorem b64PadCount_le (t : List Byte) : b64PadCount t ≤ 2 := by
  unfold b64PadCount
  split <;> (try split) <;> omega

/-! ### CBC -/

@[simp] theorem xorBytes_length (a b : List Byte) (h : a.length = b.length) : (xorBytes a b).length = a.length := by
  simp [xorBytes, h]

/-- Byte by byte (R8). -/
theorem xorBytes_getD (a b : List Byte) (h : a.length = b.length) (j : Nat) (hj : j < a.length) :
    (xorBytes a b).getD j 0 = a.getD j 0 ^^^ b.getD j 0 := by
  simp [xorBytes, List.getD_eq_getElem?_getD, hj, h ▸ hj]

/-- What is loaded into the state is what is read back (R96). -/
theorem storeBlock_loadBlock (block : List Byte) (h : block.length = 16) : storeBlock (loadBlock block) = block := by
  match block, h with
  | [_, _, _, _, _, _, _, _, _, _, _, _, _, _, _, _], _ => rfl

@[simp] theorem aes256InvCipher_length (b : List Byte) (w : List Column) : (aes256InvCipher b w).length = 16 := rfl

theorem cbcBlocks_length (w : List Column) (m : Nat) (prev ct : List Byte) (hp : prev.length = 16) (h : ct.length = 16 * m) :
    (cbcBlocks w m prev ct).length = 16 * m := by
  induction m generalizing prev ct with
  | zero => rfl
  | succ m ih =>
    have h1 : (ct.take 16).length = 16 := by simp only [List.length_take]; omega
    simp only [cbcBlocks, List.length_append, xorBytes, List.length_zipWith, aes256InvCipher_length, hp]
    rw [ih _ _ h1 (by simp only [List.length_drop]; omega)]
    omega

/-- The decrypted buffer is as long as the ciphertext (R107). -/
theorem cbcDecrypt_length (ct key iv : List Byte) (h : ct.length % 16 = 0) (hi : iv.length = 16) :
    (cbcDecrypt ct key iv).length = ct.length := by
  unfold cbcDecrypt
  rw [cbcBlocks_length _ _ _ _ hi (by omega)]
  omega

@[simp] theorem ciphertext_length (s : State) : s.ciphertext.length = s.srcLen.toNat := by simp [State.ciphertext]

/-- The IV a command decrypts with is one block. -/
theorem decryptsWith_iv_length {s : State} {i : Instr} {key iv : List Byte} (hd : s.DecryptsWith key iv i) :
    iv.length = 16 := by
  cases i with
  | classify => exact hd.elim
  | decrypt => exact hd.2.2.2
  | decryptClassify => exact hd.2.2.2
  | decryptRaw => rw [hd.2.2.2]; simp

/-- What the CBC stage writes is exactly the destination region. -/
theorem cbcStage_length {s : State} {i : Instr} {key iv : List Byte} (ha : s.InputsAccepted) (hd : s.DecryptsWith key iv i) :
    (cbcDecrypt s.ciphertext key iv).length = s.srcLen.toNat := by
  rw [cbcDecrypt_length _ _ _ (by rw [ciphertext_length]; exact ha.texts.src_aligned) (decryptsWith_iv_length hd),
    ciphertext_length]

/-- The CBC stage, with or without a late failure after it, changes no byte outside the destination region (R77, R79). -/
theorem readByte_lateFailure_outside {s : State} {i : Instr} {k : KeyIv} {e : CmdError} (ha : s.InputsAccepted)
    (hd : s.DecryptsWith k.key k.iv i) (a : Nat) (h : s.dstRegion.contains a = false) :
    readByte (raiseCmdError e (cipherStage k s)).mem a = readByte s.mem a := by
  rw [Region.not_contains_iff] at h
  simp only [State.dstRegion] at h
  have hlen := cbcStage_length ha hd
  have hct : s.regionBytes s.srcRegion = s.ciphertext := rfl
  simp only [raiseCmdError_mem, cipherStage_mem, cipherStage_dstAddr, cipherStage_srcLen, hct]
  split
  · rw [readByte_memWrite_outside _ _ _ _ (by rw [drawBytes_length]; omega), readByte_memWrite_outside _ _ _ _ (by omega)]
  · rw [readByte_memWrite_outside _ _ _ _ (by omega)]

/-! ### The Padding Remover -/

/-- The plaintext is the buffer less its final byte's count (R112). -/
theorem pkcs7Unpad_length {buf r : List Byte} (h : pkcs7Unpad buf = .plaintext r) (h16 : 16 ≤ buf.length) :
    r.length + (buf.getD (buf.length - 1) 0).toNat = buf.length := by
  unfold pkcs7Unpad at h
  simp only at h
  split at h
  · cases h
  · split at h
    · split at h
      · cases h
      · cases h; rw [List.length_take]; omega
    · cases h

/-! ### Ends of a command -/

/-- What is known of the report while a legal machine has a command in flight. -/
theorem legal_busy {s : State} (hl : s.Legal) (hb : s.status.busy = true) :
    s.status.err = false ∧ s.status.code = .none ∧ s.status.field = .none ∧ s.ResultsZero := by
  have h1 := hl.busy_not_err hb
  refine ⟨h1, ?_, hl.no_err_no_field h1, hl.busy_results hb⟩
  by_contra h
  have := hl.err_iff_code.2 h
  simp [h1] at this

/-- A launch leaves a legal machine, whatever was there before (R67). -/
theorem launch_legal (c : Word) (s : State) : (launch c s).Legal :=
  ⟨fun _ => rfl, fun _ => rfl, fun _ => rfl, fun _ => ⟨rfl, rfl, rfl, rfl, rfl⟩, fun _ => rfl, by simp, rfl⟩

/-- `STATUS` after a success, from a legal machine. -/
theorem legal_completed {s : State} (hl : s.Legal) (hb : s.status.busy = true) :
    ({ s.status with busy := false, done := true } : Status) = Status.completed s.status.ovr .none .none := by
  obtain ⟨h1, h2, h3, -⟩ := legal_busy hl hb
  simp [Status.completed, h1, h2, h3]

/-- An early error is the report and nothing else (R78). -/
theorem raiseCmdError_early (e : CmdError) (s : State) (h : e.early) :
    raiseCmdError e s = s.failedWith e.code e.field e.exp e.act := by
  obtain ⟨c, f, x, a⟩ := e
  obtain ⟨h1, h2⟩ := h
  simp only at h1 h2
  simp [raiseCmdError, publish, State.failedWith, Status.completed, h2, h1]

/-- The completion of an illegal word is the report and nothing else (R59, R78). -/
theorem illegalCommand_eq (s : State) : illegalCommand s = s.failedWith .illegalCommand .none 0 s.pendingWord :=
  raiseCmdError_early _ s ⟨by simp, rfl⟩

/-- A decrypt command whose checks fail reports the first failure. -/
theorem exec_decryptChecks {s : State} {i : Instr} (hi : i ≠ .classify) {e : CmdError} (h : decryptChecks s = some e) :
    exec i s = .next (s.failedWith e.code e.field e.exp e.act) := by
  rw [← raiseCmdError_early e s (decryptChecks_early s e h)]
  cases i <;>
    simp_all [exec, execDecrypt, execDecryptClassify, execDecryptRaw, decryptPipeline, endDecrypt, endDecryptClassify]

/-- With the checks passed, the key and the IV found, the pipeline is the CBC stage and the Padding Remover. -/
theorem decryptPipeline_ok {s : State} {keys : Except CmdError KeyIv} {k : KeyIv} (ha : s.InputsAccepted)
    (hk : keys = .ok k) : decryptPipeline keys s = cbcAndUnpad k s := by
  unfold decryptPipeline
  rw [(decryptChecks_eq_none_iff s).2 ha, hk]

/-- Every completion of a command leaves `BUSY` 0, `DONE` 1, no working copy, and `CTRL` as it was (R133). -/
theorem exec_completes {i : Instr} {s t : State} (h : exec i s = .next t) :
    t.status.busy = false ∧ t.status.done = true ∧ t.Scrubbed ∧ t.irqEn = s.irqEn ∧ t.status.ovr = s.status.ovr := by
  rcases exec_cases h with ⟨e, -, rfl, -⟩ | ⟨-, -, k, e, -, rfl, -⟩ | ⟨-, -, k, r, -, -, rfl⟩ | ⟨-, -, rfl⟩ <;>
    simp [State.Scrubbed, decrypted, classified]

end Sys2Proof.Machine
end

