-- ==== Sys2Proof/Laws/Step.lean ====
section
/-! SUPPORT. The step, said once: a completion of a command, a completion of an illegal word, a HOST access, or a turn
that passes. Every rule about every step follows from `step_cases`. -/
namespace Sys2Proof.Machine

/-- What a completion step can be (R69). -/
theorem complete_cases {s t : State} (h : complete s = .next t) :
    (∃ i, decode s.pendingWord = .ok i ∧ exec i s = .next t) ∨
    (∃ e, decode s.pendingWord = .error e ∧ t = illegalCommand s) := by
  unfold complete at h
  cases hd : decode s.pendingWord with
  | ok i => rw [hd] at h; exact .inl ⟨i, rfl, h⟩
  | error e => rw [hd] at h; cases h; exact .inr ⟨e, rfl, rfl⟩

theorem engineTurn_cases {s t : State} (h : engineTurn s = .next t) :
    (s.status.busy = true ∧ complete s = .next t) ∨ (s.status.busy = false ∧ t = s) := by
  unfold engineTurn at h
  cases hb : s.status.busy with
  | true => exact .inl ⟨rfl, by simpa [hb] using h⟩
  | false => rw [hb] at h; cases h; exact .inr ⟨rfl, rfl⟩

theorem hostTurn_cases {s t : State} (h : hostTurn s = .next t) :
    (∃ op ops, s.script = op :: ops ∧ hostAccess op { s with script := ops } = .next t) ∨ t = s := by
  unfold hostTurn at h
  cases hs : s.script with
  | nil => rw [hs] at h; cases h; exact .inr rfl
  | cons op ops => rw [hs] at h; exact .inl ⟨op, ops, rfl, h⟩

/-- THE FOUR KINDS OF STEP (R50), with `sch` what is left of the schedule: the completion of a command, the completion of
an illegal word, a HOST access, a turn that passes. -/
def StepKind (s t : State) (sch : List Agent) : Prop :=
  (∃ i, s.status.busy = true ∧ decode s.pendingWord = .ok i ∧ exec i { s with schedule := sch } = .next t) ∨
  (∃ e, s.status.busy = true ∧ decode s.pendingWord = .error e ∧ t = illegalCommand { s with schedule := sch }) ∨
  (∃ op ops, s.script = op :: ops ∧ hostAccess op { s with schedule := sch, script := ops } = .next t) ∨
  t = { s with schedule := sch }

theorem engineTurn_stepKind {s t : State} {sch : List Agent} (h : engineTurn { s with schedule := sch } = .next t) :
    StepKind s t sch := by
  rcases engineTurn_cases h with ⟨hb, hc⟩ | ⟨-, rfl⟩
  · rcases complete_cases hc with ⟨i, hd, hx⟩ | ⟨e, hd, hx⟩
    · exact .inl ⟨i, hb, hd, hx⟩
    · exact .inr (.inl ⟨e, hb, hd, hx⟩)
  · exact .inr (.inr (.inr rfl))

theorem hostTurn_stepKind {s t : State} {sch : List Agent} (h : hostTurn { s with schedule := sch } = .next t) :
    StepKind s t sch := .inr (.inr (hostTurn_cases h))

/-- Every step that goes on is of one of the four kinds, and consumes the head of the schedule if there is one. -/
theorem step_cases {s t : State} (h : step s = .next t) : StepKind s t s.schedule.tail := by
  unfold step nextTurn at h
  cases hsch : s.schedule with
  | nil =>
    have hs : { s with schedule := [] } = s := by rw [← hsch]
    rw [hsch] at h
    simp only at h
    split at h
    · exact engineTurn_stepKind (by rw [List.tail_nil, hs]; exact h)
    · exact hostTurn_stepKind (by rw [List.tail_nil, hs]; exact h)
  | cons a rest =>
    rw [hsch] at h
    cases a with
    | engine => exact engineTurn_stepKind h
    | host => exact hostTurn_stepKind h

end Sys2Proof.Machine
end

