-- ==== Sys2Proof/Tests/Slice0.lean ====
section
/-! SUPPORT. The model's own tests. Expected values come from spec/ (95_test_vectors.md, whose row is named beside each
test), never from the model. The `witness_` theorems show, for each obligation with hypotheses, concrete values that meet
them together, at the ends of their ranges. -/
namespace Sys2Proof.Tests
open Sys2Proof Sys2Proof.Machine

set_option Elab.async false

/-! ### The standard operands of 95_test_vectors.md -/

/-- The bytes of an ASCII text. -/
def asc (t : String) : List Byte := t.toList.map (fun c => BitVec.ofNat 8 c.toNat)

/-- The bytes of a hexadecimal text. -/
def hex (t : String) : List Byte := (readHexBytes t.toList).getD []

/-- The memory that lists the bytes from an address on, as they are. -/
def cells (addr : Nat) : List Byte → Memory
  | [] => []
  | b :: bs => (addr, b) :: cells (addr + 1) bs

def keyText : List Byte := asc "AAECAwQFBgcICQoLDA0ODxAREhMUFRYXGBkaGxwdHh8="
def ivText : List Byte := asc "AAECAwQFBgcICQoLDA0ODw=="
def ct1 : List Byte := hex "49fc16a11cd1ec32dc6842dc10fc47b0"
def countUp (n : Nat) : List Byte := (List.range n).map (BitVec.ofNat 8)

/-- The machine with `MEM_SIZE = 0x10000`, the standard operands' registers, and a memory that lists `m`. -/
def machine (m : Memory) : State :=
  { State.reset with
    params := { memTop := 0xFFFF, regPage := 0, idVersion := 0x0001, b64StrictTail := true }
    srcAddr := 0x0200
    srcLen := 16
    keyAddr := 0x0100
    keyLen := 44
    ivAddr := 0x0140
    ivLen := 24
    dstAddr := 0x0400
    mem := m }

/-- Key text, IV text and a source. -/
def textMemory (key iv src : List Byte) : Memory := cells 0x0100 key ++ (cells 0x0140 iv ++ cells 0x0200 src)

/-- The standard operands, with the ciphertext CT1. -/
def idle : State := machine (textMemory keyText ivText ct1)

/-- The standard operands with a command in flight. -/
def flying (i : Instr) : State := launch (encode i) idle

/-- DECRYPT_RAW's standard operands (V-C8) with the command in flight. -/
def flyingRaw : State :=
  launch (encode .decryptRaw)
    { machine (cells 0x0200 ct1 ++ (cells 0x0600 (countUp 32) ++ cells 0x0640 (countUp 16))) with
      keyAddr := 0x0600, keyLen := 32, ivAddr := 0x0640, ivLen := 16 }

/-- CLASSIFY of a buffer at 0x0300 in flight. -/
def sniffing (buf : List Byte) : State :=
  launch (encode .classify) { machine (cells 0x0300 buf) with srcAddr := 0x0300, srcLen := BitVec.ofNat 32 buf.length }

/-- The state of an outcome that goes on. -/
def after (o : Host.Outcome State Fault Refusal) : Option State :=
  match o with
  | .next t => some t
  | .fault _ => none
  | .refused _ => none

/-- `STATUS`, `ERR_EXP`, `ERR_ACT` and `RES_LEN` after a step, as numbers. -/
def report (o : Host.Outcome State Fault Refusal) : Option (List Nat) :=
  (after o).map (fun t => [t.status.word.toNat, t.errExp.toNat, t.errAct.toNat, t.resLen.toNat])

/-- `STATUS`, `CLS` and `CLS_SIZE` after a step, as numbers. -/
def verdict (o : Host.Outcome State Fault Refusal) : Option (List Nat) :=
  (after o).map (fun t => [t.status.word.toNat, t.cls.word.toNat, t.clsSize.toNat])

/-! ### WellFormed: an ill-formed term for each check, refused (R38, R62) -/

theorem test_wf_instructions : [Instr.decrypt, .classify, .decryptClassify, .decryptRaw].all Instr.wf = true := by decide
theorem test_wf_narrow_access : windowAccessWf 16 0x08 = false := by decide
theorem test_wf_wide_access : windowAccessWf 64 0x08 = false := by decide
theorem test_wf_unaligned_access : windowAccessWf 32 0x0A = false := by decide
theorem test_wf_aligned_access : windowAccessWf 32 0xFC = true := by decide
theorem test_wf_host_write : (HostOp.regWrite 8 0x0C 1).wf = false := by decide
theorem test_wf_host_read : (HostOp.regRead 32 0x03).wf = false := by decide
theorem test_wf_raw_reference : (RegRef.raw 0x41).wf = false := by decide
theorem test_wf_script_write : (ScriptLine.wr (.raw 0x02) 0).wf = false := by decide
theorem test_wf_script_read : (ScriptLine.rd (.raw 0x07) none).wf = false := by decide
theorem test_wf_script_premise : (ScriptLine.mem 0xFFFFFFFF [0, 0]).wf = false := by decide

/-! ### Decoding: words written out from R56-R59 (V-E1 - V-E5) -/

theorem test_decode_decrypt : decode 0b00000000000000000000000000000001#32 = .ok .decrypt := by decide
theorem test_decode_classify : decode 0b00000000000000000000000000000010#32 = .ok .classify := by decide
theorem test_decode_decrypt_classify : decode 0b00000000000000000000000000000011#32 = .ok .decryptClassify := by decide
theorem test_decode_decrypt_raw : decode 0b00000000000000000000000000000100#32 = .ok .decryptRaw := by decide
theorem test_decode_zero : decode 0x00000000 = .error .unassignedOpcode := by decide
theorem test_decode_five : decode 0x00000005 = .error .unassignedOpcode := by decide
theorem test_decode_fifteen : decode 0x0000000F = .error .unassignedOpcode := by decide
theorem test_decode_bit4 : decode 0x00000011 = .error .reservedBits := by decide
theorem test_decode_bit31 : decode 0x80000001 = .error .reservedBits := by decide
theorem test_decode_truncated : decodeLanes [0x01, 0x00, 0x00] = .error .truncated := by decide
/-- Lane 0 carries the least significant bits (R40). -/
theorem test_decode_lanes : decodeLanes [0x03, 0x00, 0x00, 0x00, 0xAA] = .ok (.decryptClassify, [0xAA]) := by decide
theorem test_decode_table : decodeTableWord 32 4 = some .decryptRaw ∧ decodeTableWord 32 0x14 = none := by decide

/-! ### The base64 decoder (section 3.3) -/

/-- V-B1 - V-B3, V-B13, V-B15. -/
theorem test_b64_accepts :
    b64decode true (asc "QQ==") = some [0x41] ∧ b64decode true (asc "QUI=") = some [0x41, 0x42] ∧
    b64decode true (asc "QUJD") = some [0x41, 0x42, 0x43] ∧ b64decode true (asc "+/8=") = some [0xFB, 0xFF] ∧
    b64decode true (asc "////") = some [0xFF, 0xFF, 0xFF] := by decide +kernel

/-- V-B4, V-B5: the strict tail. -/
theorem test_b64_tail :
    b64decode true (asc "QR==") = none ∧ b64decode false (asc "QR==") = some [0x41] ∧
    b64decode true (asc "QUJ=") = none ∧ b64decode false (asc "QUJ=") = some [0x41, 0x42] := by decide +kernel

/-- V-B6 - V-B12, V-B14. -/
theorem test_b64_rejects :
    ["Q===", "QQ", "Q=Q=", "QU I", "QUJD\n", "====", "AA==AA==", "-_8="].all (fun t =>
      b64decode true (asc t) == none && b64decode false (asc t) == none) = true := by decide +kernel

/-! ### The cipher (section 2) -/

/-- FIPS 197 appendix C.3. -/
theorem test_aes_c3 :
    aes256InvCipher (hex "8ea2b7ca516745bfeafc49904b496089") (keyExpansion (countUp 32)) =
      hex "00112233445566778899aabbccddeeff" := by decide +kernel

/-- Rows 8, 12 and 56 of the expanded key of section 2.1. -/
theorem test_key_expansion :
    (keyExpansion (countUp 32)).getD 8 Column.zero = { b0 := 0xA5, b1 := 0x73, b2 := 0xC2, b3 := 0x9F } ∧
    (keyExpansion (countUp 32)).getD 12 Column.zero = { b0 := 0x16, b1 := 0x51, b2 := 0xA8, b3 := 0xCD } ∧
    (keyExpansion (countUp 32)).getD 59 Column.zero = { b0 := 0x6D, b1 := 0x68, b2 := 0xDE, b3 := 0x36 } := by
  decide +kernel

/-- SP 800-38A F.2.6, blocks 0 and 1. -/
theorem test_cbc_f26 :
    cbcDecrypt (hex "f58c4c04d6e5f1ba779eabfb5f7bfbd69cfc4e967edb808d679f777bc6702c7d")
      (hex "603deb1015ca71be2b73aef0857d77811f352c073b6108d72d9810a30914dff4") (countUp 16) =
      hex "6bc1bee22e409f96e93d7e117393172aae2d8a571e03ac9c9eb76fac45af8e51" := by decide +kernel

/-! ### The Padding Remover (section 3.5) -/

/-- V-P1, V-P3, V-P4, V-P5. -/
theorem test_unpad_accepts :
    pkcs7Unpad (List.replicate 15 0 ++ [1]) = .plaintext (List.replicate 15 0) ∧
    pkcs7Unpad (List.replicate 13 0 ++ [2, 2, 2]) = .plaintext (List.replicate 13 0 ++ [2]) ∧
    pkcs7Unpad (List.replicate 16 0x10) = .empty ∧
    pkcs7Unpad (List.replicate 16 0x41 ++ List.replicate 16 0x10) = .plaintext (List.replicate 16 0x41) := by decide +kernel

/-- V-P6 - V-P11. -/
theorem test_unpad_rejects :
    [List.replicate 15 0x41 ++ [0x00], List.replicate 15 0x41 ++ [0x11], List.replicate 15 0x41 ++ [0xFF],
     List.replicate 14 0x00 ++ [0x01, 0x02], List.replicate 12 0x00 ++ [0x05, 0x04, 0x04, 0x04],
     List.replicate 16 0x41 ++ [0x11] ++ List.replicate 15 0x10].all (fun b => pkcs7Unpad b == .padFail) = true := by
  decide +kernel

/-! ### The four commands, one step each -/

/-- V-C1: DECRYPT of CT1 gives 12 bytes. -/
theorem test_decrypt_success : report (step (idle.withFetchWord 32 1)) = some [0x0002, 0, 0, 12] := by decide +kernel

/-- P1: DECRYPT_CLASSIFY of CT1 finds a png of 12 bytes. -/
theorem test_decrypt_classify_success : verdict (step (idle.withFetchWord 32 3)) = some [0x0002, 0xA, 12] := by
  decide +kernel

/-- V-M7 as DECRYPT_CLASSIFY: the destination inside the key text. -/
theorem test_decrypt_classify_overlap :
    report (step ({ idle with dstAddr := 0x0120 }.withFetchWord 32 3)) = some [0x1B06, 0, 0, 0] := by decide +kernel

/-- V-C8: DECRYPT_RAW of CT1. -/
theorem test_decrypt_raw_success : report (exec .decryptRaw flyingRaw) = some [0x0002, 0, 0, 12] := by decide +kernel

/-- V-C9: DECRYPT_RAW with the key text. -/
theorem test_decrypt_raw_key_length : report (exec .decryptRaw (flying .decryptRaw)) = some [0x1606, 32, 44, 0] := by
  decide +kernel

/-- V-S1, V-S3, V-S5, V-S7, V-S10, V-S12, V-S13, V-S15: CLASSIFY. -/
theorem test_classify_tags :
    [("", 0x0), ("ffd8ffe000104a46", 0x9), ("ffd8ff", 0x0), ("89504e470d0a1a0a", 0xA), ("4749463839610000", 0xB),
     ("524946462400000057454250", 0xC), ("5249464624000000574542", 0x0), ("424d000000000000", 0xD)].all (fun p =>
      verdict (step (sniffing (hex p.1))) == some [0x0002, p.2, (hex p.1).length]) = true := by decide +kernel

/-- V-M9. -/
theorem test_classify_bus_error :
    report (step ({ machine [] with srcAddr := 0xFFF0, srcLen := 0x20 }.withFetchWord 32 2)) =
      some [0x3A06, 0, 0xFFF0, 0] := by decide +kernel

/-- V-K3, V-K5: the IV's decode failure comes before the key's length mismatch. -/
theorem test_text_order :
    report (exec .decrypt (launch 1 (machine
      (textMemory (asc "AAECAwQFBgcICQoLDA0ODxAREhMUFRYXGBkaGxwdHg==") ivText ct1)))) = some [0x1406, 32, 31, 0] ∧
    report (exec .decrypt (launch 1 (machine
      (textMemory (asc "AAECAwQFBgcICQoLDA0ODxAREhMUFRYXGBkaGxwdHg==") (asc "AAECAwQFBgcICQoLDA0OD===") ct1)))) =
      some [0x2306, 0, 0, 0] := by decide +kernel

/-- V-E3: an illegal word. -/
theorem test_illegal_word : report (step (idle.withFetchWord 32 0xF)) = some [0x0906, 0, 0xF, 0] := by decide +kernel

/-! ### The HOST -/

/-- V-E6, V-E7: `CMD` and a reserved offset read 0; `ID` is 0x0001 and the version. -/
theorem test_reads :
    idle.readOffset 0x0C = 0 ∧ idle.readOffset 0x40 = 0 ∧ idle.readOffset 0x00 = 0x00010001 ∧
    idle.readOffset 0x1C = 44 := by decide +kernel

/-- V-E11: what a write of all ones to `STATUS` clears. -/
theorem test_status_write :
    ((({ busy := false, done := true, err := true, ovr := true, code := .busError, field := .src } : Status).writeOneToClear
      0xFFFFFFFF).word) = 0x00003A04 := by decide +kernel

/-- V-E9, V-E10: the interrupt output. -/
theorem test_irq :
    (after (hostAccess (.regWrite 32 0x04 1) { idle with status := Status.completed false .none .none })).map State.irq =
      some true ∧
    (after (hostAccess (.regWrite 32 0x08 2)
      { idle with irqEn := true, status := Status.completed false .none .none })).map State.irq = some false := by
  decide +kernel

/-- P1 line by line: its text reads as the script, and the script's triples are those of its encoding column. -/
theorem test_script_text :
    (readScript ["wr CTRL, 1".toList, "buf SRC, 0x0200, 16".toList, "dst 0x0400".toList,
      "launch DECRYPT_CLASSIFY ; go".toList, "wait".toList, "rd RES_LEN -> 12".toList, "ack".toList]).map scriptTriples =
    some [.w 0x04 1, .w 0x10 0x200, .w 0x14 0x10, .w 0x28 0x400, .w 0x0C 3, .poll 0x08, .r 0x2C (some 12), .w 0x08 2] := by
  decide +kernel

/-- R62's launch premise, and text that is no script line. -/
theorem test_script_lines :
    readLine "mem[0x0300] = ff d8".toList = some (.mem 0x0300 [0xFF, 0xD8]) ∧
    readLine "rd REG+0x40".toList = some (.rd (.raw 0x40) none) ∧ readLine "run ENCRYPT".toList = none := by decide +kernel

/-! ### Witnesses: the register window -/

theorem witness_DecodeOfEncodeIsTheCommand : Instr.wf .decryptRaw = true := by decide

theorem witness_OnlyTheMappedWordsAreCommands : ∀ i : Instr, (0x00000005 : Word) ≠ encode i := by
  intro i
  cases i <;> decide

theorem witness_PseudoInstructionExpansions : (flying .decrypt).status.done = false ∧ idle.status.done = false := by decide

theorem witness_LaunchLatchesTheWord : idle.status.busy = false := by decide

theorem witness_WritesWhileBusyOnlySetOverrun : (flying .decrypt).status.busy = true ∧
    Reg.cmd ∈ [Reg.cmd, .srcAddr, .srcLen, .keyAddr, .keyLen, .ivAddr, .ivLen, .dstAddr] ∧
    Reg.dstAddr ∈ [Reg.cmd, .srcAddr, .srcLen, .keyAddr, .keyLen, .ivAddr, .ivLen, .dstAddr] := by decide

theorem witness_IdleOperandWriteReadsBack : idle.status.busy = false ∧
    Reg.srcAddr ∈ [Reg.srcAddr, .srcLen, .keyAddr, .keyLen, .ivAddr, .ivLen, .dstAddr] ∧
    Reg.dstAddr ∈ [Reg.srcAddr, .srcLen, .keyAddr, .keyLen, .ivAddr, .ivLen, .dstAddr] := by decide

theorem witness_StatusWriteClearsOnlyDoneAndOverrun : Reg.ctrl ≠ .status ∧ Reg.clsSize ≠ .status := by decide

/-- The first and the last reserved offset, the ends of the reserved bit ranges, and values that differ in reserved bits
only. -/
theorem witness_ReservedSpaceReadsZeroAndIgnoresWrites :
    (0x40 ≤ (0x40#8).toNat ∧ (0x40#8).toNat % 4 = 0) ∧ (0x40 ≤ (0xFC#8).toNat ∧ (0xFC#8).toNat % 4 = 0) ∧
    24 ≤ 24 ∧ 1 ≤ 1 ∧ (4 ≤ 4 ∧ 4 ≤ 7 ∨ 15 ≤ 4) ∧ (4 ≤ 7 ∧ 7 ≤ 7 ∨ 15 ≤ 7) ∧ (4 ≤ 15 ∧ 15 ≤ 7 ∨ 15 ≤ 15) ∧
    (0x00000001#32).getLsbD 0 = (0xFFFFFFFF#32).getLsbD 0 ∧
    (0x0000000A#32).getLsbD 1 = (0xFFFFFFFF#32).getLsbD 1 ∧ (0x0000000A#32).getLsbD 3 = (0xFFFFFFFF#32).getLsbD 3 := by
  decide

theorem witness_ReadOnlyWritesAndReadsHaveNoEffect :
    Reg.id ∈ [Reg.id, .resLen, .errExp, .errAct, .cls, .clsSize] ∧
    Reg.clsSize ∈ [Reg.id, .resLen, .errExp, .errAct, .cls, .clsSize] := by decide

theorem witness_MalformedRegisterAccessIsRefused :
    (31 ≠ 32 ∨ (0x00#8).toNat % 4 ≠ 0) ∧ (32 ≠ 32 ∨ (0x01#8).toNat % 4 ≠ 0) ∧ (32 ≠ 32 ∨ (0xFF#8).toNat % 4 ≠ 0) := by
  decide

theorem witness_InterruptFollowsDoneAndEnable :
    (0x2#32).getLsbD 1 = true ∧ idle.status.busy = false ∧ (flying .classify).status.busy = true ∧
    (∃ t, hostAccess (.regWrite 32 Reg.status.offset 0x2) idle = .next t) ∧
    (∃ t, hostAccess (.regWrite 32 Reg.cmd.offset 0x1) idle = .next t) ∧
    (∃ t, hostAccess .reset idle = .next t) ∧
    (∃ t, hostAccess (.regWrite 32 Reg.ctrl.offset 0x1) idle = .next t) ∧
    (∃ t, engineTurn (flying .classify) = .next t) :=
  ⟨by decide, by decide, by decide, ⟨_, hostAccess_regWrite _ .status _⟩, ⟨_, hostAccess_regWrite _ .cmd _⟩, ⟨_, rfl⟩,
    ⟨_, hostAccess_regWrite _ .ctrl _⟩, exec_next .classify (flying .classify)⟩

/-- The first and the last byte of the source, the IV and the destination, and the bytes beside the destination; DECRYPT
and CLASSIFY. -/
theorem witness_TouchingAFlightRegionIsHostRace :
    (flying .decrypt).status.busy = true ∧ decode (flying .decrypt).pendingWord = .ok .decrypt ∧
    decode (flying .classify).pendingWord = .ok .classify ∧ (flying .decrypt).memSize = 0x10000 ∧
    (flying .classify).srcRegion.contains 0x0200 = true ∧ (flying .decrypt).srcRegion.contains 0x020F = true ∧
    (flying .decrypt).ivRegion.contains 0x0157 = true ∧ (flying .decrypt).keyRegion.contains 0x0100 = true ∧
    (flying .decrypt).dstRegion.contains 0x0400 = true ∧ (flying .decrypt).dstRegion.contains 0x040F = true ∧
    ¬((flying .decrypt).srcRegion.contains 0x0410 = true ∨
      Instr.decrypt ≠ .classify ∧ ((flying .decrypt).keyRegion.contains 0x0410 = true ∨
        (flying .decrypt).ivRegion.contains 0x0410 = true ∨ (flying .decrypt).dstRegion.contains 0x0410 = true)) ∧
    ¬(Instr.decrypt ≠ .classify ∧ (flying .decrypt).dstRegion.contains 0x03FF = true) := by decide +kernel

/-- Idle, and with an illegal word in flight; the last byte that exists and the first that does not. -/
theorem witness_HostMemoryAccess : idle.status.busy = false ∧ (launch 0x10 idle).status.busy = true ∧
    decode (launch 0x10 idle).pendingWord = .error .reservedBits ∧ (0x0000FFFF#32).toNat < idle.memSize ∧
    idle.memSize ≤ (0x00010000#32).toNat ∧ Reg.id ≠ .status := by decide +kernel

theorem witness_ResetClearsEveryRegister : Reg.ctrl ≠ .id ∧ Reg.clsSize ≠ .id := by decide

/-- Idle; CLASSIFY and an illegal word in flight; the bytes beside the destination of DECRYPT in flight. -/
theorem witness_ResetAbandonsTheCommand :
    hostAccess .reset (flying .decrypt) = .next (resetInput (flying .decrypt)) ∧
    (flying .decrypt).dstRegion.contains 0x03FF = false ∧ (flying .decrypt).dstRegion.contains 0x0410 = false ∧
    idle.status.busy = false ∧ decode (flying .classify).pendingWord = .ok .classify ∧
    decode (launch 0x10 idle).pendingWord = .error .reservedBits :=
  ⟨rfl, by decide +kernel, by decide +kernel, by decide, by decide, by decide⟩

theorem witness_StepRunsTheDecodedCommand :
    (flying .decryptClassify).status.busy = true ∧
    decode (flying .decryptClassify).pendingWord = .ok .decryptClassify ∧ (flying .decryptClassify).schedule = [] ∧
    { flying .decryptRaw with schedule := [.engine, .host] }.schedule = .engine :: [.host] ∧
    decode { flying .decryptRaw with schedule := [.engine, .host] }.pendingWord = .ok .decryptRaw ∧
    (launch 0x5 idle).status.busy = true ∧ (launch 0x5 idle).pending = some 0x5 ∧
    decode 0x5 = .error .unassignedOpcode ∧ (launch 0x5 idle).schedule = [] ∧
    { launch 0x5 idle with schedule := [.engine, .host] }.schedule = .engine :: [.host] := by decide

theorem witness_StepRunsTheHostAccess :
    { idle with schedule := [.host], script := [.waitDone, .reset] }.schedule = .host :: [] ∧
    { idle with schedule := [.host], script := [.waitDone, .reset] }.script = .waitDone :: [.reset] ∧
    idle.schedule = [] ∧ idle.status.busy = false ∧ idle.script = [] ∧
    { idle with schedule := [.engine] }.schedule = .engine :: [] := by decide

theorem witness_CompletionEndsEveryCommand : idle.status.busy = false ∧ (flying .decryptRaw).status.busy = true ∧
    decode (flying .decryptRaw).pendingWord = .ok .decryptRaw := by decide

/-- Opcode 0, the first and the last unassigned opcode, and a reserved bit. -/
theorem witness_IllegalWordsReportIllegalCommand : idle.status.busy = false ∧
    [0x00000000#32, 0x00000005#32, 0x0000000F#32, 0x00000010#32, 0x80000001#32].all (fun c =>
      decide (c.extractLsb' 4 28 ≠ 0 ∨ (c.extractLsb' 0 4 : BitVec 4) = 0 ∨ 5 ≤ (c.extractLsb' 0 4).toNat)) = true := by
  decide

/-! ### Witnesses: the commands -/

theorem flying_legal (i : Instr) : (flying i).Legal := launch_legal _ _

/-- The standard operands pass rows 1-6 of R71 for every command word. -/
theorem flying_accepted (i : Instr) : (flying i).InputsAccepted :=
  ⟨⟨by simp [flying, idle, machine], by simp [flying, idle, machine], by simp [flying, idle, machine],
     by simp [flying, idle, machine]⟩,
   ⟨by simp [flying, idle, machine, State.memSize], by simp [flying, idle, machine, State.memSize],
     by simp [flying, idle, machine, State.memSize], by simp [flying, idle, machine, State.memSize]⟩,
   ⟨by simp [flying, idle, machine], by simp [flying, idle, machine], by simp [flying, idle, machine]⟩⟩

theorem flying_texts (i : Instr) : (flying i).TextsDecodeTo (countUp 32) (countUp 16) := by
  have : b64decode true (memRead idle.mem 0x0100 44) = some (countUp 32) ∧
      b64decode true (memRead idle.mem 0x0140 24) = some (countUp 16) ∧
      (countUp 32).length = 32 ∧ (countUp 16).length = 16 := by decide +kernel
  exact this

/-- The plaintext of CT1: a PNG signature and "ABCD". -/
def png : List Byte := hex "89504e470d0a1a0a41424344"

theorem idle_plaintext : pkcs7Unpad (cbcDecrypt idle.ciphertext (countUp 32) (countUp 16)) = .plaintext png := by
  decide +kernel

theorem witness_DecryptPublishesThePlaintext : (flying .decrypt).Legal ∧ (flying .decrypt).status.busy = true ∧
    (flying .decrypt).InputsAccepted ∧ (flying .decrypt).TextsDecodeTo (countUp 32) (countUp 16) ∧
    pkcs7Unpad (cbcDecrypt (flying .decrypt).ciphertext (countUp 32) (countUp 16)) = .plaintext png :=
  ⟨flying_legal _, rfl, flying_accepted _, flying_texts _, idle_plaintext⟩

theorem witness_DecryptClassifyPublishesPlaintextAndTag : (flying .decryptClassify).Legal ∧
    (flying .decryptClassify).status.busy = true ∧ (flying .decryptClassify).InputsAccepted ∧
    (flying .decryptClassify).TextsDecodeTo (countUp 32) (countUp 16) ∧
    pkcs7Unpad (cbcDecrypt (flying .decryptClassify).ciphertext (countUp 32) (countUp 16)) = .plaintext png :=
  ⟨flying_legal _, rfl, flying_accepted _, flying_texts _, idle_plaintext⟩

theorem flyingRaw_accepted : flyingRaw.InputsAccepted :=
  ⟨⟨by simp [flyingRaw, machine], by simp [flyingRaw, machine], by simp [flyingRaw, machine], by simp [flyingRaw, machine]⟩,
   ⟨by simp [flyingRaw, machine, State.memSize], by simp [flyingRaw, machine, State.memSize],
     by simp [flyingRaw, machine, State.memSize], by simp [flyingRaw, machine, State.memSize]⟩,
   ⟨by simp [flyingRaw, machine], by simp [flyingRaw, machine], by simp [flyingRaw, machine]⟩⟩

theorem flyingRaw_keys : memRead flyingRaw.mem flyingRaw.keyAddr.toNat 32 = countUp 32 ∧
    memRead flyingRaw.mem flyingRaw.ivAddr.toNat 16 = countUp 16 ∧ flyingRaw.ciphertext = ct1 := by decide +kernel

theorem ct1_plaintext : pkcs7Unpad (cbcDecrypt ct1 (countUp 32) (countUp 16)) = .plaintext png := by decide +kernel

theorem witness_DecryptRawPublishesThePlaintext : flyingRaw.Legal ∧ flyingRaw.status.busy = true ∧
    flyingRaw.InputsAccepted ∧ flyingRaw.keyLen = 32 ∧ flyingRaw.ivLen = 16 ∧
    pkcs7Unpad (cbcDecrypt flyingRaw.ciphertext (memRead flyingRaw.mem flyingRaw.keyAddr.toNat 32)
      (memRead flyingRaw.mem flyingRaw.ivAddr.toNat 16)) = .plaintext png :=
  ⟨launch_legal _ _, rfl, flyingRaw_accepted, rfl, rfl, by
    rw [flyingRaw_keys.1, flyingRaw_keys.2.1, flyingRaw_keys.2.2]; exact ct1_plaintext⟩

/-- CLASSIFY of one region in flight. -/
def classifying (addr len : Word) : State := launch 2 { machine [] with srcAddr := addr, srcLen := len }

/-- An empty region past the end; a region that ends exactly at `MEM_SIZE`; one that ends a byte later. -/
theorem witness_ClassifyPublishesTheTag :
    (∀ addr len, (classifying addr len).Legal ∧ (classifying addr len).status.busy = true) ∧
    ((classifying 0xFFFFFFF0 0).srcLen = 0 ∨
      (classifying 0xFFFFFFF0 0).srcAddr.toNat + (classifying 0xFFFFFFF0 0).srcLen.toNat ≤ (classifying 0xFFFFFFF0 0).memSize) ∧
    ((classifying 0xFFF0 16).srcLen = 0 ∨
      (classifying 0xFFF0 16).srcAddr.toNat + (classifying 0xFFF0 16).srcLen.toNat ≤ (classifying 0xFFF0 16).memSize) ∧
    ((classifying 0xFFF0 17).srcLen ≠ 0 ∧
      (classifying 0xFFF0 17).memSize < (classifying 0xFFF0 17).srcAddr.toNat + (classifying 0xFFF0 17).srcLen.toNat) :=
  ⟨fun _ _ => ⟨launch_legal _ _, rfl⟩, by decide +kernel, by decide +kernel, by decide +kernel⟩

/-- The machine with other lengths (no memory is read before the Input Validator is done). -/
def withLengths (key iv src : Word) : State := { machine [] with keyLen := key, ivLen := iv, srcLen := src }

theorem witness_InputValidatorOrder : Instr.decryptRaw ≠ .classify ∧
    (withLengths 0 0 15).keyLen = 0 ∧
    ((withLengths 1 0 15).keyLen ≠ 0 ∧ (withLengths 1 0 15).ivLen = 0) ∧
    ((withLengths 1 1 0).keyLen ≠ 0 ∧ (withLengths 1 1 0).ivLen ≠ 0 ∧ (withLengths 1 1 0).srcLen = 0) ∧
    ((withLengths 1 1 17).keyLen ≠ 0 ∧ (withLengths 1 1 17).ivLen ≠ 0 ∧ (withLengths 1 1 17).srcLen ≠ 0 ∧
      (withLengths 1 1 17).srcLen.toNat % 16 ≠ 0) ∧
    ((withLengths 1 1 16).TextsAccepted ∧ (withLengths 1 1 16).status.code = .none) :=
  ⟨by decide, by decide, by decide, by decide, by decide, ⟨by decide, by decide, by decide, by decide⟩, by decide⟩

/-- The machine with other addresses. -/
def withAddresses (key iv src dst : Word) : State :=
  { machine [] with keyAddr := key, ivAddr := iv, srcAddr := src, dstAddr := dst }

theorem withAddresses_texts (key iv src dst : Word) : (withAddresses key iv src dst).TextsAccepted :=
  ⟨by simp [withAddresses, machine], by simp [withAddresses, machine], by simp [withAddresses, machine],
   by simp [withAddresses, machine]⟩

/-- Each region in turn ends one byte past the end, those before it exactly at the end. -/
theorem witness_FirstRegionPastMemoryIsBusError : Instr.decrypt ≠ .classify ∧
    (∀ k v c d, (withAddresses k v c d).TextsAccepted) ∧
    (let s := withAddresses 0xFFD5 0 0 0; s.memSize < s.keyAddr.toNat + s.keyLen.toNat) ∧
    (let s := withAddresses 0xFFD4 0xFFE9 0 0; s.keyAddr.toNat + s.keyLen.toNat ≤ s.memSize ∧
      s.memSize < s.ivAddr.toNat + s.ivLen.toNat) ∧
    (let s := withAddresses 0xFFD4 0xFFE8 0xFFF1 0; s.keyAddr.toNat + s.keyLen.toNat ≤ s.memSize ∧
      s.ivAddr.toNat + s.ivLen.toNat ≤ s.memSize ∧ s.memSize < s.srcAddr.toNat + s.srcLen.toNat) ∧
    (let s := withAddresses 0xFFD4 0xFFE8 0xFFF0 0xFFF1; s.keyAddr.toNat + s.keyLen.toNat ≤ s.memSize ∧
      s.ivAddr.toNat + s.ivLen.toNat ≤ s.memSize ∧ s.srcAddr.toNat + s.srcLen.toNat ≤ s.memSize ∧
      s.memSize < s.dstAddr.toNat + s.srcLen.toNat) :=
  ⟨by decide, withAddresses_texts, by decide +kernel, by decide +kernel, by decide +kernel, by decide +kernel⟩

theorem withAddresses_inside (dst : Word) (h : dst.toNat ≤ 0xFFF0) :
    (withAddresses 0x0100 0x0140 0x0200 dst).RegionsInside :=
  ⟨by simp [withAddresses, machine, State.memSize], by simp [withAddresses, machine, State.memSize],
   by simp [withAddresses, machine, State.memSize], by simp only [withAddresses, machine, State.memSize]; simpa using by omega⟩

theorem apart_of (s : State) (r : Region) (h : r.overlaps s.dstRegion = false) (hr : r.len ≠ 0) (hs : s.srcLen.toNat ≠ 0)
    (a : Nat) : ¬(r.contains a = true ∧ s.dstRegion.contains a = true) := by
  rw [Region.contains_iff, Region.contains_iff]
  intro hc
  have : r.overlaps s.dstRegion = true := (Region.overlaps_iff _ _).2 ⟨hr, hs, by omega, by omega⟩
  rw [h] at this
  cases this

/-- The destination shares exactly one byte with the source, with the key text, with the IV text, or with none of them
(it is adjacent to the source). -/
theorem witness_FirstOverlapIsBufferOverlap : Instr.decryptClassify ≠ .classify ∧
    (∀ dst : Word, dst.toNat ≤ 0xFFF0 → (withAddresses 0x0100 0x0140 0x0200 dst).TextsAccepted ∧
      (withAddresses 0x0100 0x0140 0x0200 dst).RegionsInside) ∧
    (let s := withAddresses 0x0100 0x0140 0x0200 0x020F;
      ∃ a, s.srcRegion.contains a = true ∧ s.dstRegion.contains a = true) ∧
    (let s := withAddresses 0x0100 0x0140 0x0200 0x00F1;
      (∀ a, ¬(s.srcRegion.contains a = true ∧ s.dstRegion.contains a = true)) ∧
      ∃ a, s.keyRegion.contains a = true ∧ s.dstRegion.contains a = true) ∧
    (let s := withAddresses 0x0100 0x0140 0x0200 0x0157;
      (∀ a, ¬(s.srcRegion.contains a = true ∧ s.dstRegion.contains a = true)) ∧
      (∀ a, ¬(s.keyRegion.contains a = true ∧ s.dstRegion.contains a = true)) ∧
      ∃ a, s.ivRegion.contains a = true ∧ s.dstRegion.contains a = true) ∧
    (let s := withAddresses 0x0100 0x0140 0x0200 0x0210;
      (∀ a, ¬(s.srcRegion.contains a = true ∧ s.dstRegion.contains a = true)) ∧
      (∀ a, ¬(s.keyRegion.contains a = true ∧ s.dstRegion.contains a = true)) ∧
      (∀ a, ¬(s.ivRegion.contains a = true ∧ s.dstRegion.contains a = true))) := by
  have ha : ∀ (d : Word) (r : Region), r.overlaps (withAddresses 0x0100 0x0140 0x0200 d).dstRegion = false → r.len ≠ 0 →
      ∀ a, ¬(r.contains a = true ∧ (withAddresses 0x0100 0x0140 0x0200 d).dstRegion.contains a = true) :=
    fun d r h hr => apart_of _ r h hr (by simp [withAddresses, machine])
  refine ⟨by decide, fun d h => ⟨withAddresses_texts _ _ _ _, withAddresses_inside d h⟩, ⟨0x020F, by decide +kernel⟩,
    ⟨ha _ _ (by decide +kernel) (by decide +kernel), 0x0100, by decide +kernel⟩,
    ⟨ha _ _ (by decide +kernel) (by decide +kernel), ha _ _ (by decide +kernel) (by decide +kernel), 0x0157,
      by decide +kernel⟩,
    ha _ _ (by decide +kernel) (by decide +kernel), ha _ _ (by decide +kernel) (by decide +kernel),
    ha _ _ (by decide +kernel) (by decide +kernel)⟩

/-- Other texts, each of the length that its register says. -/
def withTexts (key iv : List Byte) : State :=
  { machine (textMemory key iv ct1) with keyLen := BitVec.ofNat 32 key.length, ivLen := BitVec.ofNat 32 iv.length }

/-- The standard machine with a memory of other texts is accepted, since rows 1-6 of R71 read no memory. -/
theorem accepted_of_memory (m : Memory) : (machine m).InputsAccepted :=
  ⟨⟨by simp [machine], by simp [machine], by simp [machine], by simp [machine]⟩,
   ⟨by simp [machine, State.memSize], by simp [machine, State.memSize], by simp [machine, State.memSize],
     by simp [machine, State.memSize]⟩,
   ⟨by simp [machine], by simp [machine], by simp [machine]⟩⟩

/-- V-K1, V-K8, V-K3 (31 bytes) and V-K7 (17 bytes). -/
theorem witness_TextFailuresInOrder : (∀ m, (machine m).InputsAccepted) ∧
    b64decode true (memRead (textMemory (asc "AAECAwQFBgcICQoLDA0ODxAREhMUFRYXGBkaGxwdHh8 ") ivText ct1) 0x0100 44) = none ∧
    b64decode true (memRead (textMemory keyText ivText ct1) 0x0100 44) = some (countUp 32) ∧
    b64decode true (memRead (textMemory keyText (asc "AAECAwQFBgcICQoLDA0ODw=A") ct1) 0x0140 24) = none ∧
    b64decode true (memRead (textMemory (asc "AAECAwQFBgcICQoLDA0ODxAREhMUFRYXGBkaGxwdHg==") ivText ct1) 0x0100 44) =
      some (countUp 31) ∧
    b64decode true (memRead (textMemory keyText ivText ct1) 0x0140 24) = some (countUp 16) ∧
    (countUp 31).length ≠ 32 ∧ (countUp 32).length = 32 ∧
    b64decode true (memRead (textMemory keyText (asc "AAECAwQFBgcICQoLDA0ODxA=") ct1) 0x0140 24) = some (countUp 17) ∧
    (countUp 17).length ≠ 16 :=
  ⟨accepted_of_memory, by decide +kernel⟩

/-- Wrong key length; right key length and wrong IV length; both right. -/
theorem witness_RawLengthFailuresInOrder : (flying .decryptRaw).InputsAccepted ∧ (flying .decryptRaw).keyLen ≠ 32 ∧
    (let s := launch 4 { machine [] with keyAddr := 0x0600, keyLen := 32 };
      s.InputsAccepted ∧ s.keyLen = 32 ∧ s.ivLen ≠ 16) ∧
    (flyingRaw.InputsAccepted ∧ flyingRaw.keyLen = 32 ∧ flyingRaw.ivLen = 16 ∧ flyingRaw.status.code ≠ .cipherInitFailure) ∧
    (Instr.decrypt ≠ .decryptRaw ∧ (flying .decrypt).status.code ≠ .cipherInitFailure ∧
      ∃ t, exec .decrypt (flying .decrypt) = .next t) :=
  ⟨flying_accepted _, by decide,
   ⟨⟨⟨by simp [machine], by simp [machine], by simp [machine], by simp [machine]⟩,
     ⟨by simp [machine, State.memSize], by simp [machine, State.memSize], by simp [machine, State.memSize],
       by simp [machine, State.memSize]⟩,
     ⟨by simp [machine], by simp [machine], by simp [machine]⟩⟩, by decide, by decide⟩,
   ⟨flyingRaw_accepted, rfl, rfl, by decide⟩, by decide, by decide, exec_next _ _⟩

/-- A command in flight over the standard texts and another ciphertext. -/
def flyingOver (ct : List Byte) : State := launch 1 (machine (textMemory keyText ivText ct))

theorem flyingOver_accepted (ct : List Byte) : (flyingOver ct).InputsAccepted := by
  have h := accepted_of_memory (textMemory keyText ivText ct)
  exact ⟨⟨h.1.1, h.1.2, h.1.3, h.1.4⟩, ⟨h.2.1, h.2.2, h.2.3, h.2.4⟩, ⟨h.3.1, h.3.2, h.3.3⟩⟩

/-- V-C5 with k = 15 (a bad final byte) and V-C3 (an empty plaintext). -/
theorem witness_LateFailuresReportNoCause :
    (∀ ct, (flyingOver ct).Legal ∧ (flyingOver ct).status.busy = true ∧ (flyingOver ct).InputsAccepted) ∧
    (flyingOver (hex "49fc16a11cd1ec32dc6842dc10fc47b1")).DecryptsWith (countUp 32) (countUp 16) .decrypt ∧
    pkcs7Unpad (cbcDecrypt (flyingOver (hex "49fc16a11cd1ec32dc6842dc10fc47b1")).ciphertext (countUp 32) (countUp 16)) =
      .padFail ∧
    (flyingOver (hex "e9c3ef8ab23453e6f0749cd636e7a88e")).DecryptsWith (countUp 32) (countUp 16) .decryptClassify ∧
    pkcs7Unpad (cbcDecrypt (flyingOver (hex "e9c3ef8ab23453e6f0749cd636e7a88e")).ciphertext (countUp 32) (countUp 16)) =
      .empty ∧
    (flyingOver (hex "e9c3ef8ab23453e6f0749cd636e7a88e")).dstRegion.contains 0x0410 = false := by
  refine ⟨fun ct => ⟨launch_legal _ _, rfl, flyingOver_accepted ct⟩, ?_, by decide +kernel, ?_, by decide +kernel,
    by decide +kernel⟩
  · have : b64decode true (memRead (flyingOver (hex "49fc16a11cd1ec32dc6842dc10fc47b1")).mem 0x0100 44) = some (countUp 32) ∧
        b64decode true (memRead (flyingOver (hex "49fc16a11cd1ec32dc6842dc10fc47b1")).mem 0x0140 24) = some (countUp 16) ∧
        (countUp 32).length = 32 ∧ (countUp 16).length = 16 := by decide +kernel
    exact this
  · have : b64decode true (memRead (flyingOver (hex "e9c3ef8ab23453e6f0749cd636e7a88e")).mem 0x0100 44) = some (countUp 32) ∧
        b64decode true (memRead (flyingOver (hex "e9c3ef8ab23453e6f0749cd636e7a88e")).mem 0x0140 24) = some (countUp 16) ∧
        (countUp 32).length = 32 ∧ (countUp 16).length = 16 := by decide +kernel
    exact this

/-- DECRYPT with an empty key text, in flight. -/
def emptyKey : State := launch 1 (withLengths 0 24 16)

theorem emptyKey_fails : exec .decrypt emptyKey = .next (emptyKey.failedWith .emptyInput .key 0 0) :=
  exec_decryptChecks (e := { code := .emptyInput, field := .key, exp := 0, act := 0 }) (by decide) rfl

theorem witness_EarlyFailuresWriteNoMemory : emptyKey.Legal ∧ emptyKey.status.busy = true ∧
    complete emptyKey = .next (emptyKey.failedWith .emptyInput .key 0 0) ∧
    (emptyKey.failedWith .emptyInput .key 0 0).status.err = true ∧
    (emptyKey.failedWith .emptyInput .key 0 0).status.code ≠ .paddingValidationFailure ∧
    (emptyKey.failedWith .emptyInput .key 0 0).status.code ≠ .emptyPlaintextAfterUnpad :=
  ⟨launch_legal _ _, rfl, emptyKey_fails, rfl, by decide, by decide⟩

theorem witness_ErrorContextByCode : emptyKey.Legal ∧ emptyKey.status.busy = true ∧ (∃ t, complete emptyKey = .next t) ∧
    (flying .decrypt).Legal ∧ (flying .decrypt).status.busy = true ∧ ∃ t, complete (flying .decrypt) = .next t :=
  ⟨launch_legal _ _, rfl, ⟨_, emptyKey_fails⟩, launch_legal _ _, rfl, exec_next .decrypt _⟩

theorem emptyKey_classify_fails :
    exec .decryptClassify emptyKey = .next (emptyKey.failedWith .emptyInput .key 0 0) :=
  exec_decryptChecks (e := { code := .emptyInput, field := .key, exp := 0, act := 0 }) (by decide) rfl

/-- A failing run and a successful one. -/
theorem witness_DecryptClassifyFailsAsDecrypt :
    (∃ t, exec .decrypt emptyKey = .next t) ∧
    (∃ u, exec .decryptClassify emptyKey = .next u ∧ emptyKey.Legal ∧ emptyKey.status.busy = true ∧
      u.status.err = true) ∧
    (∃ t, exec .decrypt (flying .decrypt) = .next t) ∧
    ∃ u, after (exec .decryptClassify (flying .decrypt)) = some u ∧ (flying .decrypt).Legal ∧
      (flying .decrypt).status.busy = true ∧ u.status.err = false := by
  refine ⟨⟨_, emptyKey_fails⟩, ⟨_, emptyKey_classify_fails, launch_legal _ _, rfl, rfl⟩, exec_next _ _, ?_⟩
  have h : ((after (exec .decryptClassify (flying .decrypt))).map (fun u => u.status.err)) = some false := by decide +kernel
  cases hu : after (exec .decryptClassify (flying .decrypt)) with
  | none => rw [hu] at h; cases h
  | some u =>
    rw [hu] at h
    exact ⟨u, rfl, launch_legal _ _, rfl, Option.some.inj h⟩

/-- A success, an early failure, and the byte right after the destination. -/
theorem witness_FrameOfTheDecryptCommands : Instr.decryptRaw ≠ .classify ∧
    (∃ t, exec .decryptRaw flyingRaw = .next t) ∧
    (flying .decrypt).InputsAccepted ∧ (flying .decrypt).DecryptsWith (countUp 32) (countUp 16) .decrypt ∧
    pkcs7Unpad (cbcDecrypt (flying .decrypt).ciphertext (countUp 32) (countUp 16)) = .plaintext png ∧
    (flying .decrypt).dstRegion.contains 0x03FF = false ∧ (flying .decrypt).dstRegion.contains 0x0410 = false ∧
    (0x0400 + 12 ≤ 0x040C ∧ 0x040C < 0x0400 + 16) ∧ (0x0400 + 12 ≤ 0x040F ∧ 0x040F < 0x0400 + 16) ∧
    (∃ t, exec .decrypt emptyKey = .next t) ∧
    ∀ key iv, ¬(emptyKey.InputsAccepted ∧ emptyKey.DecryptsWith key iv .decrypt) :=
  ⟨by decide, exec_next _ _, flying_accepted _, flying_texts _, idle_plaintext, by decide +kernel, by decide +kernel,
    by decide, by decide, ⟨_, emptyKey_fails⟩, fun _ _ h => h.1.texts.key_nonempty rfl⟩

theorem witness_FrameOfClassify : (∃ t, exec .classify (classifying 0xFFF0 16) = .next t) ∧
    ((classifying 0xFFF0 16).srcLen = 0 ∨
      (classifying 0xFFF0 16).srcAddr.toNat + (classifying 0xFFF0 16).srcLen.toNat ≤ (classifying 0xFFF0 16).memSize) ∧
    (∃ t, exec .classify (classifying 0xFFF0 17) = .next t) ∧
    ((classifying 0xFFF0 17).srcLen ≠ 0 ∧
      (classifying 0xFFF0 17).memSize < (classifying 0xFFF0 17).srcAddr.toNat + (classifying 0xFFF0 17).srcLen.toNat) :=
  ⟨exec_next _ _, by decide +kernel, exec_next _ _, by decide +kernel⟩

/-- An early failure, whose code is no late one. -/
theorem witness_OutcomeDependsOnlyOnOperandsAndRegions_early :
    exec .decrypt emptyKey = .next (emptyKey.failedWith .emptyInput .key 0 0) ∧
    (emptyKey.failedWith .emptyInput .key 0 0).status.err = true ∧
    (emptyKey.failedWith .emptyInput .key 0 0).status.code.late = false := ⟨emptyKey_fails, rfl, rfl⟩

/-- Two machines that differ in a byte outside the regions and in `CTRL`. -/
theorem witness_OutcomeDependsOnlyOnOperandsAndRegions :
    let s := flying .decrypt
    let s' := { flying .decrypt with irqEn := true, mem := (flying .decrypt).mem ++ [(0x0500, 0xAA)] }
    s.Legal ∧ s'.Legal ∧ s.status.busy = true ∧ s'.status.busy = true ∧ s.status.ovr = s'.status.ovr ∧
    s.params = s'.params ∧ s.SameOperands s' ∧ s.SameBytes s' s.srcRegion ∧ s.SameBytes s' s.keyRegion ∧
    s.SameBytes s' s.ivRegion ∧ (∃ t, exec .decrypt s = .next t) ∧ ∃ t, exec .decrypt s' = .next t := by
  have append : ∀ (m : Memory) (x : Host.Cell) (a : Nat), x.1 ≠ a → readByte m a = readByte (m ++ [x]) a := by
    intro m x a h
    induction m with
    | nil => simp [readByte, h]
    | cons c m ih => simp only [readByte, List.cons_append, ih]
  have same : ∀ r : Region, r.addr + r.len ≤ 0x0500 → (flying .decrypt).SameBytes
      { flying .decrypt with irqEn := true, mem := (flying .decrypt).mem ++ [(0x0500, 0xAA)] } r := by
    intro r hr a ha
    rw [Region.contains_iff] at ha
    exact append _ _ a (by simp only; omega)
  have hl := flying_legal .decrypt
  exact ⟨hl, ⟨hl.1, hl.2, hl.3, hl.4, hl.5, hl.6, hl.7⟩, rfl, rfl, rfl, rfl, ⟨rfl, rfl, rfl, rfl, rfl, rfl, rfl⟩,
    same _ (by decide +kernel), same _ (by decide +kernel), same _ (by decide +kernel), exec_next _ _, exec_next _ _⟩

/-! ### Witnesses: the stages -/

/-- A text meets, with `p` trailing pad characters, what the acceptance clause of O39 asks of it (R86-R88). -/
abbrev Acceptable (strict : Bool) (text : List Byte) (p : Nat) : Prop :=
  text ≠ [] ∧ text.length % 4 = 0 ∧ p ≤ 2 ∧
  (∀ i, i < text.length → text.length - p ≤ i → text.getD i 0 = 0x3D) ∧
  (∀ i, i < text.length - p → b64Value (text.getD i 0) ≠ none) ∧
  (strict = true → p = 1 → ((b64Value (text.getD (text.length - 2) 0)).map BitVec.toNat).getD 0 % 4 = 0) ∧
  (strict = true → p = 2 → ((b64Value (text.getD (text.length - 3) 0)).map BitVec.toNat).getD 0 % 16 = 0)

/-- No pad, one, two, with the strict tail (V-B1 - V-B3); nonzero unused bits without it (V-B4, V-B5); the last byte of a
padded last quantum; and a valid text for the first clause. -/
theorem witness_Base64OutputLength :
    Acceptable true (asc "QUJD") 0 ∧ Acceptable true (asc "QUI=") 1 ∧ Acceptable true (asc "QQ==") 2 ∧
    Acceptable false (asc "QUJ=") 1 ∧ Acceptable false (asc "QR==") 2 ∧
    b64decode true (asc "QUI=") = some [0x41, 0x42] ∧ (1 < 3 ∧ 3 * 0 + 1 < [0x41#8, 0x42#8].length) ∧
    b64decode true [] = some [] := by
  unfold Acceptable
  refine ⟨?_, ?_, ?_, ?_, ?_, ?_, ?_, ?_⟩ <;> decide +kernel

/-- A space in the text, a pad too early, an `=` that is not last, and a length of 5. -/
theorem witness_Base64SkipsNothing :
    (2 < (asc "QU I").length ∧ b64Value ((asc "QU I").getD 2 0) = none ∧ (asc "QU I").getD 2 0 ≠ 0x3D) ∧
    (1 < (asc "Q===").length ∧ b64Value ((asc "Q===").getD 1 0) = none ∧ 1 + 2 < (asc "Q===").length) ∧
    ((asc "QU=I").getD ((asc "QU=I").length - 2) 0 = 0x3D ∧ (asc "QU=I").getD ((asc "QU=I").length - 1) 0 ≠ 0x3D) ∧
    (asc "QUJD\n").length % 4 ≠ 0 := by decide +kernel

/-- V-B1, V-B4 and V-B5: no pad, two pads, one pad. -/
theorem witness_Base64StrictTail :
    4 ≤ (asc "QUJD").length ∧ 4 ≤ (asc "QQ==").length ∧ b64PadCount (asc "QQ==") = 2 ∧
    b64Value ((asc "QQ==").getD ((asc "QQ==").length - 3) 0) = some 16 ∧ b64PadCount (asc "QUI=") = 1 ∧
    b64Value ((asc "QUI=").getD ((asc "QUI=").length - 2) 0) = some 8 := by decide +kernel

theorem witness_StrictBase64TextsAreCanonical : b64decode true (asc "QUI=") = some [0x41, 0x42] := by decide +kernel

theorem witness_InverseRoundTransforms : (0 < 4 ∧ 3 < 4) ∧ (0 < 16 ∧ 15 < 16) ∧ (countUp 16).length = 16 ∧
    (let s := loadBlock (countUp 16); s.c3 = s.c0 ∨ s.c3 = s.c1 ∨ s.c3 = s.c2 ∨ s.c3 = s.c3) := by decide +kernel

theorem witness_TablesAndConstantsAreThoseOfTheField : (0x00 : Byte) = 0 ∧ (0xFF : Byte) ≠ 0 ∧ 0 < 8 ∧ 7 < 8 := by decide

theorem witness_KeyExpansionRecurrence : (countUp 32).length = 32 ∧ 0 < 8 ∧ 7 < 8 ∧ (8 ≤ 8 ∧ 8 < 60) ∧
    (8 ≤ 59 ∧ 59 < 60) ∧ 0 ≤ 14 ∧ 14 ≤ 14 ∧ 1 ≤ 1 := by decide

theorem witness_InverseCipherIsABijection : (countUp 16).length = 16 ∧
    aes256InvCipher (countUp 16) [] = aes256InvCipher (countUp 16) [] := ⟨by decide, rfl⟩

theorem witness_CbcBlockEquation : (countUp 32).length % 16 = 0 ∧ (countUp 16).length = 16 ∧ 0 < (countUp 32).length / 16 ∧
    1 < (countUp 32).length / 16 ∧ (countUp 16).length = (hex "00112233445566778899aabbccddeeff").length ∧
    0 < (countUp 16).length ∧ 15 < (countUp 16).length := by decide +kernel

theorem witness_EveryPlaintextHasOneCiphertext : (countUp 16).length = 16 ∧ asc "ABCD" ≠ [] ∧ ct1.length % 16 = 0 := by
  decide +kernel

theorem witness_Pkcs7AcceptsExactlyValidPadding : 16 ≤ (List.replicate 16 (0x10 : Byte)).length ∧
    (List.replicate 16 (0x10 : Byte)).length % 16 = 0 := by decide

/-! ### Witnesses: invariants and whole-machine rules -/

theorem witness_LegalStatesStayLegal : idle.Legal ∧ ∃ t, step { idle with script := [.regWrite 32 Reg.cmd.offset 1] } = .next t :=
  ⟨⟨by decide, by decide, by decide, fun h => absurd h (by decide), by decide, by decide, by decide⟩, _, rfl⟩

/-- A HOST write over an empty memory, at the last byte that exists. -/
theorem witness_MemoryStaysCanonicalAndInside :
    let s := { machine [] with script := [.memWrite 0x0000FFFF 0x5A] }
    Memory.wf s.mem ∧ s.MemoryInside ∧ ∃ t, step s = .next t :=
  ⟨⟨List.Pairwise.nil, by simp [machine]⟩, by simp [State.MemoryInside, machine], _, rfl⟩

/-- A memory in canonical form; the first and the last byte of a read and of a write, and the bytes beside it. -/
theorem witness_CanonicalMemoriesAreDeterminedByReads :
    (Memory.wf (writeByte [] 5 0x5A) ∧ ∀ a, readByte (writeByte [] 5 0x5A) a = readByte (writeByte [] 5 0x5A) a) ∧
    (0 < 16 ∧ 15 < 16) ∧ (0 < (countUp 16).length ∧ 15 < (countUp 16).length) ∧
    (0x01FF < 0x0200 ∨ 0x0200 + (countUp 16).length ≤ 0x01FF) ∧ (0x0210 < 0x0200 ∨ 0x0200 + (countUp 16).length ≤ 0x0210) :=
  ⟨⟨writeByte_wf [] 5 0x5A ⟨List.Pairwise.nil, by simp⟩, fun _ => rfl⟩, by decide, by decide, by decide, by decide⟩

theorem witness_KeyMaterialNeverSurvivesAStep :
    (flying .decrypt).Scrubbed ∧ (flying .decrypt).status.busy = true ∧
    ∃ t, step (flying .decrypt) = .next t ∧ t.status.busy = false := by
  obtain ⟨t, ht⟩ := exec_next .decrypt (flying .decrypt)
  exact ⟨⟨rfl, rfl, rfl, rfl⟩, rfl, t, ht, (exec_completes ht).1⟩

/-- A buffer of seven bytes. -/
theorem witness_SniffBySignature : (hex "ffd8ffd8000000").length < 8 := by decide +kernel

theorem witness_IdentificationNeverChanges : ∃ t, step { idle with script := [.reset] } = .next t := ⟨_, rfl⟩

theorem witness_OperandsAreFrozenInFlight :
    let s := { flying .decrypt with schedule := [.host], script := [.regWrite 32 Reg.srcLen.offset 32] }
    s.status.busy = true ∧ ∃ t, step s = .next t ∧ t.status.busy = true := ⟨rfl, _, rfl, rfl⟩

/-- A launch; a completion; a reset in flight; a `STATUS` write that clears `OVR`. -/
theorem witness_WhatChangesBusyAndOverrun :
    (idle.status.busy = false ∧ ∃ t, step { idle with script := [.regWrite 32 Reg.cmd.offset 1] } = .next t ∧
      t.status.busy = true) ∧
    ((flying .classify).status.busy = true ∧ ∃ t, step (flying .classify) = .next t ∧ t.status.busy = false) ∧
    (∃ t, step { flying .decrypt with schedule := [.host], script := [.reset] } = .next t ∧ t.status.busy = false) ∧
    (idle.overrun.status.ovr = true ∧
      ∃ t, step { idle.overrun with script := [.regWrite 32 Reg.status.offset 0x8] } = .next t ∧ t.status.ovr = false) := by
  obtain ⟨t, ht⟩ := exec_next .classify (flying .classify)
  exact ⟨⟨rfl, _, rfl, rfl⟩, ⟨rfl, t, ht, (exec_completes ht).1⟩, ⟨_, rfl, rfl⟩, rfl, _, rfl, by decide +kernel⟩

/-- A HOST write that changes the byte it writes, whatever the byte was: one of two values does. -/
theorem witness_WhatChangesMemory : ∃ (b : Byte) (t : State), step { machine [] with script := [.memWrite 0x0010 b] } = .next t ∧
    readByte t.mem 0x0010 ≠ readByte (machine []).mem 0x0010 := by
  have hs : ∀ b : Byte, step { machine [] with script := [.memWrite 0x0010 b] } =
      .next { machine [] with mem := writeByte [] 0x0010 b } := fun _ => rfl
  by_cases h : readByte (machine []).mem 0x0010 = 0
  · refine ⟨1, _, hs 1, ?_⟩
    rw [h]
    simp only [readByte_writeByte]
    decide
  · refine ⟨0, _, hs 0, ?_⟩
    simp only [readByte_writeByte]
    exact fun h' => h h'.symm

theorem witness_PollingSeesCompletion :
    let s := { flying .decrypt with script := [.waitDone], schedule := [.host, .engine] }
    s.Legal ∧ s.status.busy = true ∧ s.script = [.waitDone] :=
  have hl := flying_legal .decrypt
  ⟨⟨hl.1, hl.2, hl.3, hl.4, hl.5, hl.6, hl.7⟩, rfl, rfl⟩

end Sys2Proof.Tests
end

section
/-! PROOF. The statements about the state (10_state.md): the register window, and the invariants that every step keeps. -/
namespace Sys2Proof.Machine

/-! ### `setOperand`: only the operand registers change -/

@[simp] theorem setOperand_params (r : Reg) (v : Word) (s : State) : (setOperand r v s).params = s.params := by
  cases r <;> rfl

@[simp] theorem setOperand_irqEn (r : Reg) (v : Word) (s : State) : (setOperand r v s).irqEn = s.irqEn := by
  cases r <;> rfl

@[simp] theorem setOperand_status (r : Reg) (v : Word) (s : State) : (setOperand r v s).status = s.status := by
  cases r <;> rfl

@[simp] theorem setOperand_resLen (r : Reg) (v : Word) (s : State) : (setOperand r v s).resLen = s.resLen := by
  cases r <;> rfl

@[simp] theorem setOperand_errExp (r : Reg) (v : Word) (s : State) : (setOperand r v s).errExp = s.errExp := by
  cases r <;> rfl

@[simp] theorem setOperand_errAct (r : Reg) (v : Word) (s : State) : (setOperand r v s).errAct = s.errAct := by
  cases r <;> rfl

@[simp] theorem setOperand_cls (r : Reg) (v : Word) (s : State) : (setOperand r v s).cls = s.cls := by
  cases r <;> rfl

@[simp] theorem setOperand_clsSize (r : Reg) (v : Word) (s : State) : (setOperand r v s).clsSize = s.clsSize := by
  cases r <;> rfl

@[simp] theorem setOperand_pending (r : Reg) (v : Word) (s : State) : (setOperand r v s).pending = s.pending := by
  cases r <;> rfl

@[simp] theorem setOperand_keyBuf (r : Reg) (v : Word) (s : State) : (setOperand r v s).keyBuf = s.keyBuf := by
  cases r <;> rfl

@[simp] theorem setOperand_ivBuf (r : Reg) (v : Word) (s : State) : (setOperand r v s).ivBuf = s.ivBuf := by
  cases r <;> rfl

@[simp] theorem setOperand_keySched (r : Reg) (v : Word) (s : State) : (setOperand r v s).keySched = s.keySched := by
  cases r <;> rfl

@[simp] theorem setOperand_prev (r : Reg) (v : Word) (s : State) : (setOperand r v s).prev = s.prev := by
  cases r <;> rfl

@[simp] theorem setOperand_mem (r : Reg) (v : Word) (s : State) : (setOperand r v s).mem = s.mem := by
  cases r <;> rfl

@[simp] theorem setOperand_draws (r : Reg) (v : Word) (s : State) : (setOperand r v s).draws = s.draws := by
  cases r <;> rfl

@[simp] theorem setOperand_script (r : Reg) (v : Word) (s : State) : (setOperand r v s).script = s.script := by
  cases r <;> rfl

@[simp] theorem setOperand_schedule (r : Reg) (v : Word) (s : State) : (setOperand r v s).schedule = s.schedule := by
  cases r <;> rfl

@[simp] theorem setOperand_reads (r : Reg) (v : Word) (s : State) : (setOperand r v s).reads = s.reads := by
  cases r <;> rfl

/-! ### The register window -/

/-- An operand register holds all 32 bits that it takes. -/
theorem regWord_setOperand_same {r : Reg} (hr : r.isOperand = true) (v : Word) (s : State) :
    (setOperand r v s).regWord r = v := by
  cases r <;> simp [Reg.isOperand] at hr <;> rfl

/-- No register reads another value when an operand register other than it takes one. -/
theorem regWord_setOperand_of_ne {q r : Reg} (h : q ≠ r) (v : Word) (s : State) :
    (setOperand r v s).regWord q = s.regWord q := by
  cases r <;> cases q <;> simp [setOperand, State.regWord] at h ⊢

/-- `STATUS` is read by no register but itself. -/
theorem regWord_status_of_ne {q : Reg} (h : q ≠ .status) (st : Status) (s : State) :
    { s with status := st }.regWord q = s.regWord q := by
  cases q <;> simp [State.regWord] at h ⊢

theorem writeReg_operand_idle {s : State} (hb : s.status.busy = false) {r : Reg} (hr : r.isOperand = true) (v : Word) :
    s.writeReg r v = setOperand r v s := by
  cases r <;> simp [Reg.isOperand] at hr <;> simp [State.writeReg, State.unlessBusy, setOperand, hb]

theorem hostAccess_operandWrite_idle {s : State} (hb : s.status.busy = false) {r : Reg} (hr : r.isOperand = true)
    (v : Word) : hostAccess (.regWrite 32 r.offset v) s = .next (setOperand r v s) := by
  rw [hostAccess_regWrite, writeReg_operand_idle hb hr]

/-- The registers that are read only (R16). -/
def Reg.isReadOnly : Reg → Bool
  | .id | .resLen | .errExp | .errAct | .cls | .clsSize => true
  | _ => false

theorem writeReg_readOnly {r : Reg} (hr : r.isReadOnly = true) (v : Word) (s : State) : s.writeReg r v = s := by
  cases r <;> simp [Reg.isReadOnly] at hr <;> rfl

theorem hostAccess_readOnlyWrite {r : Reg} (hr : r.isReadOnly = true) (v : Word) (s : State) :
    hostAccess (.regWrite 32 r.offset v) s = .next s := by
  rw [hostAccess_regWrite, writeReg_readOnly hr]

theorem windowAccessWf_aligned {off : BitVec 8} (h : off.toNat % 4 = 0) : windowAccessWf 32 off = true :=
  (windowAccessWf_iff 32 off).2 ⟨rfl, h⟩

theorem hostAccess_reservedRead {off : BitVec 8} (h : 0x40 ≤ off.toNat) (h4 : off.toNat % 4 = 0) (s : State) :
    hostAccess (.regRead 32 off) s = .next (s.observe (.reg off 0)) := by
  simp [hostAccess, windowAccessWf_aligned h4, hostRegRead, State.readOffset, ofOffset_reserved off h]

theorem hostAccess_reservedWrite {off : BitVec 8} (h : 0x40 ≤ off.toNat) (h4 : off.toNat % 4 = 0) (v : Word)
    (s : State) : hostAccess (.regWrite 32 off v) s = .next s := by
  simp [hostAccess, windowAccessWf_aligned h4, State.writeOffset, ofOffset_reserved off h]

/-! ### The packed words, as numbers -/

theorem ErrCode.num_le (c : ErrCode) : c.num ≤ 11 := by cases c <;> decide

theorem ErrField.num_le (f : ErrField) : f.num ≤ 4 := by cases f <;> decide

theorem Tag.num_le (t : Tag) : t.num ≤ 5 := by cases t <;> decide

theorem ErrField.num_inj {f g : ErrField} : f.num = g.num ↔ f = g := by
  cases f <;> cases g <;> simp [ErrField.num]

/-- The summands of `Status.word` fill disjoint bits below bit 15, so nothing is lost in the 32-bit word. -/
theorem Status.word_toNat (st : Status) :
    st.word.toNat = st.busy.toNat + 2 * st.done.toNat + 4 * st.err.toNat + 8 * st.ovr.toNat +
      256 * st.code.num + 4096 * st.field.num := by
  have hc := st.code.num_le
  have hf := st.field.num_le
  have := st.busy.toNat_lt
  have := st.done.toNat_lt
  have := st.err.toNat_lt
  have := st.ovr.toNat_lt
  simp only [Status.word, BitVec.toNat_ofNat]
  omega

theorem Cls.word_toNat (c : Cls) : c.word.toNat = c.tag.num + 8 * c.valid.toNat := by
  have := c.tag.num_le
  have := c.valid.toNat_lt
  simp only [Cls.word, BitVec.toNat_ofNat]
  omega

theorem ctrlWord_toNat (b : Bool) : (ctrlWord b).toNat = b.toNat := by cases b <;> rfl

theorem ctrlWord_eq_ite (b : Bool) : ctrlWord b = if b then 1 else 0 := by cases b <;> rfl

theorem idWord_toNat (p : Params) : (idWord p).toNat = 65536 + p.idVersion.toNat := by
  rw [idWord, BitVec.toNat_append, ← Nat.shiftLeft_add_eq_or_of_lt p.idVersion.isLt]
  rfl

/-! ### The reserved bits read 0 (R17) -/

/-- A bit of a word, read off the word's number. -/
theorem getLsbD_eq_of_toNat {w : Word} {k : Nat} {b : Bool} (h : w.toNat / 2 ^ k % 2 = b.toNat) : w.getLsbD k = b := by
  rw [← BitVec.testBit_toNat, Nat.testBit_eq_decide_div_mod_eq, h]
  cases b <;> rfl

/-- A word below `2 ^ n` has no bit from bit `n` on. -/
theorem getLsbD_eq_false_of_toNat_lt {w : Word} {n k : Nat} (h : w.toNat < 2 ^ n) (hk : n ≤ k) :
    w.getLsbD k = false := by
  rw [← BitVec.testBit_toNat]
  exact Nat.testBit_lt_two_pow (h.trans_le (Nat.pow_le_pow_right (by decide) hk))

theorem idWord_reserved (p : Params) {k : Nat} (hk : 24 ≤ k) : (idWord p).getLsbD k = false := by
  have := p.idVersion.isLt
  exact getLsbD_eq_false_of_toNat_lt (n := 24) (by rw [idWord_toNat]; omega) hk

theorem ctrlWord_reserved (b : Bool) {k : Nat} (hk : 1 ≤ k) : (ctrlWord b).getLsbD k = false :=
  getLsbD_eq_false_of_toNat_lt (n := 1) (by rw [ctrlWord_toNat]; exact b.toNat_lt) hk

theorem Cls.word_reserved (c : Cls) {k : Nat} (hk : 4 ≤ k) : c.word.getLsbD k = false := by
  have := c.tag.num_le
  have := c.valid.toNat_lt
  exact getLsbD_eq_false_of_toNat_lt (n := 4) (by rw [c.word_toNat]; omega) hk

/-- The flags fill bits 0-3 and the codes begin at bit 8, so bits 4-7 are 0; the field code ends at bit 14. -/
theorem Status.word_reserved (st : Status) {k : Nat} (hk : 4 ≤ k ∧ k ≤ 7 ∨ 15 ≤ k) : st.word.getLsbD k = false := by
  have := st.busy.toNat_lt
  have := st.done.toNat_lt
  have := st.err.toNat_lt
  have := st.ovr.toNat_lt
  rcases hk with ⟨h4, h7⟩ | h15
  · apply getLsbD_eq_of_toNat
    rw [st.word_toNat, Bool.toNat_false]
    interval_cases k <;> omega
  · have := st.code.num_le
    have := st.field.num_le
    exact getLsbD_eq_false_of_toNat_lt (n := 15) (by rw [st.word_toNat]; omega) h15

/-! ### The defined bits (R18, R20, R33) -/

theorem Status.word_code (st : Status) : (st.word.extractLsb' 8 4).toNat = st.code.num := by
  have := st.code.num_le
  have := st.busy.toNat_lt
  have := st.done.toNat_lt
  have := st.err.toNat_lt
  have := st.ovr.toNat_lt
  rw [BitVec.extractLsb'_toNat, st.word_toNat, Nat.shiftRight_eq_div_pow]
  omega

theorem Status.word_field (st : Status) : (st.word.extractLsb' 12 3).toNat = st.field.num := by
  have := st.code.num_le
  have := st.field.num_le
  have := st.busy.toNat_lt
  have := st.done.toNat_lt
  have := st.err.toNat_lt
  have := st.ovr.toNat_lt
  rw [BitVec.extractLsb'_toNat, st.word_toNat, Nat.shiftRight_eq_div_pow]
  omega

/-- The four flags: what stands below a flag does not reach its bit, and what stands above it is even there. -/
theorem Status.word_flags (st : Status) :
    st.word.getLsbD 0 = st.busy ∧ st.word.getLsbD 1 = st.done ∧
      st.word.getLsbD 2 = st.err ∧ st.word.getLsbD 3 = st.ovr := by
  have := st.busy.toNat_lt
  have := st.done.toNat_lt
  have := st.err.toNat_lt
  have := st.ovr.toNat_lt
  refine ⟨?_, ?_, ?_, ?_⟩ <;> apply getLsbD_eq_of_toNat <;> rw [st.word_toNat] <;> omega

theorem Cls.word_tag (c : Cls) : (c.word.extractLsb' 0 3).toNat = c.tag.num := by
  have := c.tag.num_le
  have := c.valid.toNat_lt
  rw [BitVec.extractLsb'_toNat, c.word_toNat, Nat.shiftRight_eq_div_pow]
  omega

theorem Cls.word_valid (c : Cls) : c.word.getLsbD 3 = c.valid := by
  have := c.tag.num_le
  have := c.valid.toNat_lt
  apply getLsbD_eq_of_toNat
  rw [c.word_toNat]
  omega

theorem idWord_fields (p : Params) :
    (idWord p).extractLsb' 0 16 = p.idVersion ∧ (idWord p).extractLsb' 16 8 = 0x01#8 ∧
      (idWord p).extractLsb' 24 8 = 0#8 := by
  have := p.idVersion.isLt
  refine ⟨BitVec.extractLsb'_append_eq_right, BitVec.eq_of_toNat_eq ?_, BitVec.eq_of_toNat_eq ?_⟩ <;>
    rw [BitVec.extractLsb'_toNat, idWord_toNat, Nat.shiftRight_eq_div_pow, BitVec.toNat_ofNat] <;> omega

/-! ### What a HOST access does to the state -/

/-- What a HOST access can do to `STATUS`: nothing; the write of `STATUS`; a launch; `OVR` set by a write turned away;
reset. -/
theorem hostAccess_status_cases {op : HostOp} {s t : State} (h : hostAccess op s = .next t) :
    t.status = s.status ∨
    (∃ v, op = .regWrite 32 Reg.status.offset v ∧ t.status = s.status.writeOneToClear v) ∨
    (∃ c, op = .regWrite 32 Reg.cmd.offset c ∧ s.status.busy = false ∧ t = launch c s) ∨
    t.status = { s.status with ovr := true } ∨
    (op = .reset ∧ t = resetInput s) := by
  rcases hostAccess_cases h with
    ⟨r, v, hop, rfl⟩ | ⟨x, rfl⟩ | ⟨x, -, -, rfl⟩ | ⟨addr, b, -, -, -, rfl⟩ | ⟨hop, rfl⟩ | rfl
  · rcases writeReg_cases s r v with
      hw | ⟨-, hw⟩ | ⟨rfl, hw⟩ | ⟨rfl, hb, hw⟩ | ⟨-, -, hw⟩ | ⟨-, -, hw⟩ <;> rw [hw]
    · exact .inl rfl
    · exact .inl rfl
    · exact .inr (.inl ⟨v, hop, rfl⟩)
    · exact .inr (.inr (.inl ⟨v, hop, hb, rfl⟩))
    · exact .inr (.inr (.inr (.inl rfl)))
    · exact .inl (setOperand_status r v s)
  · exact .inl rfl
  · exact .inl rfl
  · exact .inl rfl
  · exact .inr (.inr (.inr (.inr ⟨hop, rfl⟩)))
  · exact .inl rfl

/-- `BUSY` rises in a HOST access only by a launch (R21). -/
theorem hostAccess_busy_rises {op : HostOp} {s t : State} (h : hostAccess op s = .next t)
    (hs : s.status.busy = false) (ht : t.status.busy = true) :
    ∃ c, op = .regWrite 32 Reg.cmd.offset c ∧ t = launch c s := by
  rcases hostAccess_status_cases h with he | ⟨v, -, he⟩ | ⟨c, hop, -, rfl⟩ | he | ⟨-, rfl⟩
  · simp [he, hs] at ht
  · simp [he, hs, Status.writeOneToClear] at ht
  · exact ⟨c, hop, rfl⟩
  · simp [he, hs] at ht
  · simp at ht

/-- `BUSY` falls in a HOST access only by reset (R21). -/
theorem hostAccess_busy_falls {op : HostOp} {s t : State} (h : hostAccess op s = .next t)
    (hs : s.status.busy = true) (ht : t.status.busy = false) : op = .reset ∧ t = resetInput s := by
  rcases hostAccess_status_cases h with he | ⟨v, -, he⟩ | ⟨c, -, hb, -⟩ | he | hr
  · simp [he, hs] at ht
  · simp [he, hs, Status.writeOneToClear] at ht
  · simp [hs] at hb
  · simp [he, hs] at ht
  · exact hr

/-- `OVR` falls in a HOST access only by the write of `STATUS` with bit 3 set or by reset (R24). -/
theorem hostAccess_ovr_falls {op : HostOp} {s t : State} (h : hostAccess op s = .next t)
    (hs : s.status.ovr = true) (ht : t.status.ovr = false) :
    (∃ v, op = .regWrite 32 Reg.status.offset v ∧ v.getLsbD 3 = true) ∨ op = .reset := by
  rcases hostAccess_status_cases h with he | ⟨v, hop, he⟩ | ⟨c, -, -, rfl⟩ | he | ⟨hop, -⟩
  · simp [he, hs] at ht
  · refine .inl ⟨v, hop, ?_⟩
    simpa [he, hs, Status.writeOneToClear] using ht
  · simp [hs] at ht
  · simp [he] at ht
  · exact .inr hop

theorem hostAccess_params {op : HostOp} {s t : State} (h : hostAccess op s = .next t) : t.params = s.params := by
  rcases hostAccess_cases h with
    ⟨r, v, -, rfl⟩ | ⟨x, rfl⟩ | ⟨x, -, -, rfl⟩ | ⟨addr, b, -, -, -, rfl⟩ | ⟨-, rfl⟩ | rfl
  · rcases writeReg_cases s r v with
      hw | ⟨-, hw⟩ | ⟨-, hw⟩ | ⟨-, -, hw⟩ | ⟨-, -, hw⟩ | ⟨-, -, hw⟩ <;> rw [hw]
    · rfl
    · rfl
    · exact setOperand_params r v s
  all_goals rfl

theorem resetInput_scrubbed (s : State) : (resetInput s).Scrubbed := ⟨rfl, rfl, rfl, rfl⟩

theorem hostAccess_scrubbed {op : HostOp} {s t : State} (hs : s.Scrubbed) (h : hostAccess op s = .next t) :
    t.Scrubbed := by
  rcases hostAccess_cases h with
    ⟨r, v, -, rfl⟩ | ⟨x, rfl⟩ | ⟨x, -, -, rfl⟩ | ⟨addr, b, -, -, -, rfl⟩ | ⟨-, rfl⟩ | rfl
  · rcases writeReg_cases s r v with
      hw | ⟨-, hw⟩ | ⟨-, hw⟩ | ⟨-, -, hw⟩ | ⟨-, -, hw⟩ | ⟨-, -, hw⟩ <;> rw [hw]
    · exact hs
    · exact hs
    · exact hs
    · exact hs
    · exact hs
    · simpa [State.Scrubbed] using hs
  · exact hs
  · exact hs
  · exact hs
  · exact resetInput_scrubbed s
  · exact hs

/-! ### Legal states -/

/-- A machine with no command in flight is legal when its report and its classification agree (R20, R125). -/
theorem legal_of_not_busy {s : State} (hb : s.status.busy = false) (hf : s.status.err = false → s.status.field = .none)
    (he : s.status.err = true ↔ s.status.code ≠ .none) (hc : s.cls.valid = (s.cls.tag != .unknown)) : s.Legal where
  busy_not_done h := by simp [hb] at h
  busy_not_err h := by simp [hb] at h
  no_err_no_field := hf
  busy_results h := by simp [hb] at h
  busy_pending h := by simp [hb] at h
  err_iff_code := he
  cls_valid := hc

/-- `Legal` speaks of the result registers and of `PENDING` alone. -/
theorem State.Legal.of_sameResults {s t : State} (hl : s.Legal) (hr : s.SameResults t) (hp : s.pending = t.pending) :
    t.Legal := by
  obtain ⟨hst, hlen, hexp, hact, hcls, hsize⟩ := hr
  obtain ⟨hdone, herr, hfield, hres, hpend, hcode, hvalid⟩ := hl
  simp only [State.ResultsZero, hst, hlen, hexp, hact, hcls, hsize, hp] at *
  exact ⟨hdone, herr, hfield, hres, hpend, hcode, hvalid⟩

/-- `OVR` is free, and so is `DONE` while no command is in flight (R20). -/
theorem State.Legal.with_flags {s : State} (hl : s.Legal) {done ovr : Bool} (hd : s.status.busy = true → done = false) :
    { s with status := { s.status with done := done, ovr := ovr } }.Legal :=
  ⟨hd, hl.busy_not_err, hl.no_err_no_field, hl.busy_results, hl.busy_pending, hl.err_iff_code, hl.cls_valid⟩

theorem resetInput_legal (s : State) : (resetInput s).Legal :=
  legal_of_not_busy rfl (fun _ => rfl) (by simp) rfl

/-- An error with a code leaves a legal machine (R134). -/
theorem raiseCmdError_legal {e : CmdError} (he : e.code ≠ .none) {s : State}
    (hc : s.cls.valid = (s.cls.tag != .unknown)) : (raiseCmdError e s).Legal :=
  legal_of_not_busy rfl (by simp) (by simp [he]) hc

/-- A success leaves the report as the launch left it (R135) and a classification that agrees with its flag. -/
theorem finishOk_legal {s : State} (hf : s.status.err = false → s.status.field = .none)
    (he : s.status.err = true ↔ s.status.code ≠ .none) (hc : s.cls.valid = (s.cls.tag != .unknown)) :
    (finishOk s).Legal :=
  legal_of_not_busy rfl hf he hc

theorem decrypted_cls_valid {s : State} (hc : s.cls.valid = (s.cls.tag != .unknown)) (i : Instr) (k : KeyIv)
    (r : List Byte) : (decrypted i k r s).cls.valid = ((decrypted i k r s).cls.tag != .unknown) := by
  by_cases hi : i = .decryptClassify
  · simp [decrypted, hi, Cls.ofTag]
  · simpa [decrypted, hi] using hc

theorem exec_legal {i : Instr} {s t : State} (hl : s.Legal) (h : exec i s = .next t) : t.Legal := by
  rcases exec_cases h with ⟨e, he, rfl, -⟩ | ⟨-, -, k, e, -, rfl, he⟩ | ⟨-, -, k, r, -, -, rfl⟩ | ⟨-, -, rfl⟩
  · exact raiseCmdError_legal he.1 hl.cls_valid
  · have hcode : e.code ≠ .none := by
      rcases he with ⟨rfl, -⟩ | ⟨rfl, -⟩
      · simp [paddingError]
      · simp [emptyError]
    exact raiseCmdError_legal hcode hl.cls_valid
  · exact finishOk_legal hl.no_err_no_field hl.err_iff_code (decrypted_cls_valid hl.cls_valid i k r)
  · exact finishOk_legal hl.no_err_no_field hl.err_iff_code rfl

theorem illegalCommand_legal {s : State} (hl : s.Legal) : (illegalCommand s).Legal :=
  raiseCmdError_legal (by simp) hl.cls_valid

theorem setOperand_legal {s : State} (hl : s.Legal) (r : Reg) (v : Word) : (setOperand r v s).Legal :=
  hl.of_sameResults (by simp [State.SameResults]) (by simp)

theorem writeReg_legal {s : State} (hl : s.Legal) (r : Reg) (v : Word) : (s.writeReg r v).Legal := by
  rcases writeReg_cases s r v with
    hw | ⟨-, hw⟩ | ⟨-, hw⟩ | ⟨-, -, hw⟩ | ⟨-, -, hw⟩ | ⟨-, -, hw⟩ <;> rw [hw]
  · exact hl
  · exact hl.of_sameResults ⟨rfl, rfl, rfl, rfl, rfl, rfl⟩ rfl
  · exact hl.with_flags fun hb => by simp [hl.busy_not_done hb]
  · exact launch_legal v s
  · exact hl.with_flags hl.busy_not_done
  · exact setOperand_legal hl r v

theorem hostAccess_legal {op : HostOp} {s t : State} (hl : s.Legal) (h : hostAccess op s = .next t) : t.Legal := by
  rcases hostAccess_cases h with
    ⟨r, v, -, rfl⟩ | ⟨x, rfl⟩ | ⟨x, -, -, rfl⟩ | ⟨addr, b, -, -, -, rfl⟩ | ⟨-, rfl⟩ | rfl
  · exact writeReg_legal hl r v
  · exact hl.of_sameResults ⟨rfl, rfl, rfl, rfl, rfl, rfl⟩ rfl
  · exact hl.of_sameResults ⟨rfl, rfl, rfl, rfl, rfl, rfl⟩ rfl
  · exact hl.of_sameResults ⟨rfl, rfl, rfl, rfl, rfl, rfl⟩ rfl
  · exact resetInput_legal s
  · exact hl

/-! ### What every step keeps -/

/-- A property of states that does not read the script or the schedule, and that every command, an illegal word and every
HOST access keep, is kept by every step. -/
theorem step_keeps {P : State → Prop} (hturn : ∀ s sch ops, P s → P { s with schedule := sch, script := ops })
    (hexec : ∀ i s t, P s → exec i s = .next t → P t) (hillegal : ∀ s, P s → P (illegalCommand s))
    (hhost : ∀ op s t, P s → hostAccess op s = .next t → P t) {s t : State} (hs : P s) (h : step s = .next t) : P t := by
  rcases step_cases h with ⟨i, -, -, hx⟩ | ⟨e, -, -, rfl⟩ | ⟨op, ops, -, hx⟩ | rfl
  · exact hexec i _ t (hturn s _ s.script hs) hx
  · exact hillegal _ (hturn s _ s.script hs)
  · exact hhost op _ t (hturn s _ ops hs) hx
  · exact hturn s _ s.script hs

theorem complete_of_decode_ok {s : State} {i : Instr} (h : decode s.pendingWord = .ok i) : complete s = exec i s := by
  rw [complete, h]

theorem complete_of_decode_error {s : State} {e : Illegal} (h : decode s.pendingWord = .error e) :
    complete s = .next (illegalCommand s) := by
  rw [complete, h]

theorem illegalCommand_scrubbed (s : State) : (illegalCommand s).Scrubbed := ⟨rfl, rfl, rfl, rfl⟩

theorem exec_scrubbed {i : Instr} {s t : State} (h : exec i s = .next t) : t.Scrubbed := by
  obtain ⟨-, -, hscrub, -⟩ := exec_completes h
  exact hscrub

theorem exec_params {i : Instr} {s t : State} (h : exec i s = .next t) : t.params = s.params := by
  rcases exec_cases h with ⟨e, -, rfl, -⟩ | ⟨-, -, k, e, -, rfl, -⟩ | ⟨-, -, k, r, -, -, rfl⟩ | ⟨-, -, rfl⟩ <;> rfl

theorem step_params {s t : State} (h : step s = .next t) : t.params = s.params :=
  step_keeps (P := fun u => u.params = s.params)
    (hturn := fun _ _ _ hu => hu)
    (hexec := fun _ _ _ hu hx => (exec_params hx).trans hu)
    (hillegal := fun _ hu => hu)
    (hhost := fun _ _ _ hu hx => (hostAccess_params hx).trans hu) rfl h

/-- A step in which `BUSY` falls is the completion of the command in flight, or a reset (R21). -/
theorem step_busy_falls {s t : State} (hs : s.status.busy = true) (ht : t.status.busy = false) (h : step s = .next t) :
    (complete { s with schedule := s.schedule.tail } = .next t ∧ t.status.done = true ∧ t.Scrubbed) ∨
    ∃ ops, s.script = .reset :: ops ∧ t = resetInput { s with schedule := s.schedule.tail, script := ops } := by
  rcases step_cases h with ⟨i, -, hd, hx⟩ | ⟨e, -, hd, rfl⟩ | ⟨op, ops, hop, hx⟩ | rfl
  · obtain ⟨-, hdone, hscrub, -⟩ := exec_completes hx
    exact .inl ⟨(complete_of_decode_ok (s := { s with schedule := s.schedule.tail }) hd).trans hx, hdone, hscrub⟩
  · exact .inl ⟨complete_of_decode_error hd, rfl, illegalCommand_scrubbed _⟩
  · obtain ⟨rfl, rfl⟩ := hostAccess_busy_falls hx hs ht
    exact .inr ⟨ops, hop, rfl⟩
  · simp [hs] at ht

/-- A step in which `BUSY` rises is the HOST's write of `CMD`, which latches the word (R21, R67). -/
theorem step_busy_rises {s t : State} (hs : s.status.busy = false) (ht : t.status.busy = true) (h : step s = .next t) :
    ∃ c ops, s.script = .regWrite 32 Reg.cmd.offset c :: ops ∧ t.pending = some c := by
  rcases step_cases h with ⟨i, hb, -, -⟩ | ⟨e, hb, -, -⟩ | ⟨op, ops, hop, hx⟩ | rfl
  · simp [hs] at hb
  · simp [hs] at hb
  · obtain ⟨c, rfl, rfl⟩ := hostAccess_busy_rises hx hs ht
    exact ⟨c, ops, hop, rfl⟩
  · simp [hs] at ht

/-- A step in which `OVR` falls is the HOST's write of `STATUS` with bit 3 set, or a reset (R24). -/
theorem step_ovr_falls {s t : State} (hs : s.status.ovr = true) (ht : t.status.ovr = false) (h : step s = .next t) :
    (∃ v ops, s.script = .regWrite 32 Reg.status.offset v :: ops ∧ v.getLsbD 3 = true) ∨
    ∃ ops, s.script = .reset :: ops := by
  rcases step_cases h with ⟨i, -, -, hx⟩ | ⟨e, -, -, rfl⟩ | ⟨op, ops, hop, hx⟩ | rfl
  · obtain ⟨-, -, -, -, hovr⟩ := exec_completes hx
    simp [hovr, hs] at ht
  · simp [hs] at ht
  · rcases hostAccess_ovr_falls hx hs ht with ⟨v, rfl, hv⟩ | rfl
    · exact .inl ⟨v, ops, hop, hv⟩
    · exact .inr ⟨ops, hop⟩
  · simp [hs] at ht

/-! ### The obligations -/

/-- Settles O52: each kind of step leaves a legal state; `Legal` does not read the script or the schedule. -/
theorem legalStatesStayLegal : Obligations.LegalStatesStayLegal := fun _ _ hs h =>
  step_keeps (P := State.Legal)
    (hturn := fun _ _ _ hl => hl.of_sameResults ⟨rfl, rfl, rfl, rfl, rfl, rfl⟩ rfl)
    (hexec := fun _ _ _ hl hx => exec_legal hl hx)
    (hillegal := fun _ hl => illegalCommand_legal hl)
    (hhost := fun _ _ _ hl hx => hostAccess_legal hl hx) hs h

/-- Settles O9, from the rules on reserved offsets and on the reserved bits of the packed words; the two registers with
reserved bits that can be written take only the bits that the hypotheses name. -/
theorem reservedSpaceReadsZeroAndIgnoresWrites : Obligations.ReservedSpaceReadsZeroAndIgnoresWrites := by
  refine ⟨fun s off v h h4 => ⟨hostAccess_reservedRead h h4 s, hostAccess_reservedWrite h h4 v s⟩,
    fun s k hk => idWord_reserved s.params hk, fun s k hk => ctrlWord_reserved s.irqEn hk,
    fun s k hk => s.status.word_reserved hk, fun s k hk => s.cls.word_reserved hk, fun s v v' h0 => ?_,
    fun s v v' h1 h3 => ?_, fun s v => ⟨hostAccess_readOnlyWrite rfl v s, hostAccess_readOnlyWrite rfl v s⟩⟩
  · simp only [hostAccess_regWrite, State.writeReg, h0]
  · simp only [hostAccess_regWrite, State.writeReg, Status.writeOneToClear, h1, h3]

/-- Settles O55: no move of the HOST makes a working copy, and a completion or a reset removes any. -/
theorem keyMaterialNeverSurvivesAStep : Obligations.KeyMaterialNeverSurvivesAStep := by
  refine ⟨fun s t hs h => ?_, fun s t hb ht h => ?_⟩
  · exact step_keeps (P := State.Scrubbed)
      (hturn := fun _ _ _ hu => hu)
      (hexec := fun _ _ _ _ hx => exec_scrubbed hx)
      (hillegal := fun u _ => illegalCommand_scrubbed u)
      (hhost := fun _ _ _ hu hx => hostAccess_scrubbed hu hx) hs h
  · rcases step_busy_falls hb ht h with ⟨-, -, hscrub⟩ | ⟨ops, -, rfl⟩
    · exact hscrub
    · exact resetInput_scrubbed _

/-- Settles O56: no step changes the parameters, from which `ID` is computed. -/
theorem identificationNeverChanges : Obligations.IdentificationNeverChanges :=
  ⟨fun _ _ h => ⟨step_params h, congrArg idWord (step_params h)⟩, fun s => idWord_fields s.params⟩

/-- Settles O58, from what a step is in which `BUSY` rises, `BUSY` falls, or `OVR` falls. -/
theorem whatChangesBusyAndOverrun : Obligations.WhatChangesBusyAndOverrun := by
  refine fun s t h => ⟨fun hs ht => step_busy_rises hs ht h, fun hs ht => ?_, fun hs ht => step_ovr_falls hs ht h⟩
  rcases step_busy_falls hs ht h with ⟨hc, hdone, -⟩ | ⟨ops, hop, rfl⟩
  · exact .inl ⟨hc, hdone⟩
  · exact .inr ⟨⟨ops, hop⟩, rfl⟩

/-- Settles O7: the write is `setOperand`, which changes that operand register alone. -/
theorem idleOperandWriteReadsBack : Obligations.IdleOperandWriteReadsBack := by
  intro s r v hb hr
  have hop : r.isOperand = true := by
    revert hr
    cases r <;> decide
  have hread : hostAccess (.regRead 32 r.offset) (setOperand r v s) =
      .next ((setOperand r v s).observe (.reg r.offset v)) := by
    rw [hostAccess_regRead, regWord_setOperand_same hop]
  refine ⟨setOperand r v s, hostAccess_operandWrite_idle hb hop v, hread,
    fun q hq => regWord_setOperand_of_ne hq v s, ?_⟩
  simp only [setOperand_mem, setOperand_pending, setOperand_keyBuf, setOperand_ivBuf, setOperand_keySched,
    setOperand_prev, setOperand_status, setOperand_irqEn, setOperand_cls, setOperand_params, setOperand_draws,
    setOperand_script, setOperand_schedule, setOperand_reads, true_and]
  exact ⟨hostAccess_operandWrite_idle (r := .srcAddr) hb rfl v, hostAccess_operandWrite_idle (r := .srcLen) hb rfl v,
    hostAccess_operandWrite_idle (r := .keyAddr) hb rfl v, hostAccess_operandWrite_idle (r := .keyLen) hb rfl v,
    hostAccess_operandWrite_idle (r := .ivAddr) hb rfl v, hostAccess_operandWrite_idle (r := .ivLen) hb rfl v,
    hostAccess_operandWrite_idle (r := .dstAddr) hb rfl v⟩

/-- Settles O8: the write is `Status.writeOneToClear`, and no register but `STATUS` reads it. -/
theorem statusWriteClearsOnlyDoneAndOverrun : Obligations.StatusWriteClearsOnlyDoneAndOverrun := fun s v =>
  ⟨{ s with status := s.status.writeOneToClear v }, hostAccess_regWrite s .status v, rfl,
    by simp [Status.writeOneToClear], by simp [Status.writeOneToClear], fun _ hq => regWord_status_of_ne hq _ s⟩

/-- Settles O10: the map of R15 register by register, with the rules on reads and on writes of read-only registers. -/
theorem readOnlyWritesAndReadsHaveNoEffect : Obligations.ReadOnlyWritesAndReadsHaveNoEffect := by
  refine ⟨fun s r v => ⟨fun hr => ?_, hostAccess_regRead s r, rfl⟩, by decide, fun s =>
    ⟨rfl, rfl, rfl, rfl, rfl, rfl, rfl, rfl, rfl, rfl, rfl, ctrlWord_eq_ite s.irqEn⟩⟩
  have hro : r.isReadOnly = true := by
    revert hr
    cases r <;> decide
  exact hostAccess_readOnlyWrite hro v s

/-- Settles O12, from the places and the ranges of the codes in the packed words. -/
theorem errorCodeAndFieldRanges : Obligations.ErrorCodeAndFieldRanges := by
  refine ⟨fun s => ?_, by decide, by decide⟩
  obtain ⟨hbusy, hdone, herr, hovr⟩ := s.status.word_flags
  exact ⟨s.status.word_code, s.status.code.num_le, s.status.word_field, s.status.field.num_le,
    ErrField.num_inj (g := .none), ErrField.num_inj (g := .key), ErrField.num_inj (g := .iv),
    ErrField.num_inj (g := .src), ErrField.num_inj (g := .dst), hbusy, hdone, herr, hovr,
    s.cls.word_tag, s.cls.tag.num_le, s.cls.word_valid⟩

/-- Settles O51: no command is in flight and the report is empty; no byte of the memory is listed; no copy has a value. -/
theorem resetSatisfiesTheInvariants : Obligations.ResetSatisfiesTheInvariants :=
  ⟨legal_of_not_busy rfl (fun _ => rfl) (by simp) rfl, ⟨List.Pairwise.nil, by simp⟩, by simp [State.MemoryInside],
    rfl, rfl, rfl, rfl⟩

end Sys2Proof.Machine
end


section
/-! PROOF. The statements about the data memory (20_memory.md): its operations, the HOST's accesses to it, the checks on
regions, and what a step can change in it. -/
namespace Sys2Proof.Machine

/-! ### A memory in canonical form is determined by what it reads -/

/-- A listed cell is what its address reads: the addresses rise, so no cell before it has its address. -/
theorem readByte_of_mem {m : Memory} (hs : m.Pairwise (fun c d => c.1 < d.1)) {c : Host.Cell} (hc : c ∈ m) :
    readByte m c.1 = c.2 := by
  induction m with
  | nil => simp at hc
  | cons d m ih =>
    obtain ⟨hd, hm⟩ := List.pairwise_cons.1 hs
    rcases List.mem_cons.1 hc with rfl | hc
    · simp [readByte]
    · have hne : d.1 ≠ c.1 := Nat.ne_of_lt (hd c hc)
      simp [readByte, hne, ih hm hc]

/-- An address that does not read as unlisted has a cell. -/
theorem mem_of_readByte_ne {m : Memory} {a : Nat} (h : readByte m a ≠ unlistedByte a) : (a, readByte m a) ∈ m := by
  induction m with
  | nil => simp [readByte] at h
  | cons c m ih =>
    by_cases hc : c.1 = a
    · simp [readByte, ← hc]
    · simp only [readByte, if_neg hc] at h ⊢
      exact List.mem_cons_of_mem c (ih h)

/-- The cells of a memory in canonical form are the bytes that do not read as unlisted. -/
theorem mem_iff_readByte {m : Memory} (hm : Memory.wf m) (c : Host.Cell) :
    c ∈ m ↔ readByte m c.1 = c.2 ∧ c.2 ≠ unlistedByte c.1 := by
  obtain ⟨hsorted, hlisted⟩ := hm
  refine ⟨fun hc => ⟨readByte_of_mem hsorted hc, hlisted c hc⟩, fun ⟨hr, hu⟩ => ?_⟩
  have hmem := mem_of_readByte_ne (m := m) (a := c.1) (by rwa [hr])
  rwa [hr] at hmem

theorem memory_ext {m m' : Memory} (hm : Memory.wf m) (hm' : Memory.wf m') (h : ∀ a, readByte m a = readByte m' a) :
    m = m' := by
  have hirrefl : Std.Irrefl (fun c d : Host.Cell => c.1 < d.1) := ⟨fun c => Nat.lt_irrefl c.1⟩
  have hantisymm : Std.Antisymm (fun c d : Host.Cell => c.1 < d.1) := ⟨fun _ _ h1 h2 => absurd h1 (Nat.lt_asymm h2)⟩
  refine List.Pairwise.eq_of_mem_iff hm.1 hm'.1 fun c => ?_
  rw [mem_iff_readByte hm, mem_iff_readByte hm', h]

/-! ### What an operation can change in the memory -/

/-- From `m` to `m'` only bytes with `P` are written: the canonical form is kept, a new cell is at an address with `P`, and
every other byte reads as before. -/
structure ChangedOnly (P : Nat → Prop) (m m' : Memory) : Prop where
  keeps_wf : Memory.wf m → Memory.wf m'
  new_cell : ∀ c ∈ m', P c.1 ∨ c ∈ m
  frame : ∀ a, ¬P a → readByte m' a = readByte m a

theorem ChangedOnly.refl (P : Nat → Prop) (m : Memory) : ChangedOnly P m m :=
  ⟨id, fun _ => .inr, fun _ _ => rfl⟩

theorem ChangedOnly.trans {P : Nat → Prop} {m m' m'' : Memory} (h : ChangedOnly P m m') (h' : ChangedOnly P m' m'') :
    ChangedOnly P m m'' where
  keeps_wf hm := h'.keeps_wf (h.keeps_wf hm)
  new_cell c hc := (h'.new_cell c hc).elim .inl (h.new_cell c)
  frame a ha := (h'.frame a ha).trans (h.frame a ha)

theorem ChangedOnly.mono {P Q : Nat → Prop} {m m' : Memory} (h : ChangedOnly P m m') (hPQ : ∀ a, P a → Q a) :
    ChangedOnly Q m m' where
  keeps_wf := h.keeps_wf
  new_cell c hc := (h.new_cell c hc).imp_left (hPQ c.1)
  frame a ha := h.frame a fun hP => ha (hPQ a hP)

theorem memWrite_changedOnly {P : Nat → Prop} {addr : Nat} {bs : List Byte}
    (hP : ∀ a, addr ≤ a → a < addr + bs.length → P a) (m : Memory) : ChangedOnly P m (memWrite m addr bs) where
  keeps_wf := memWrite_wf m addr bs
  new_cell c hc := (memWrite_keys m addr bs c hc).imp_left fun ⟨h1, h2⟩ => hP c.1 h1 h2
  frame a ha := readByte_memWrite_outside m addr bs a (by
    by_contra hin
    exact ha (hP a (by omega) (by omega)))

theorem writeByte_changedOnly {P : Nat → Prop} {addr : Nat} (hP : P addr) (m : Memory) (b : Byte) :
    ChangedOnly P m (writeByte m addr b) :=
  memWrite_changedOnly (bs := [b]) (fun a h1 h2 => by
    obtain rfl : a = addr := by simp only [List.length_singleton] at h2; omega
    exact hP) m

/-- A byte of the destination region that exists. -/
def State.IsDstByte (s : State) (a : Nat) : Prop := s.dstRegion.contains a = true ∧ a < s.memSize

/-- With the region inside the memory, a write over the whole destination changes its existing bytes alone. -/
theorem memWrite_dst_changedOnly {s : State} (hin : s.RegionsInside) {bs : List Byte} (hlen : bs.length = s.srcLen.toNat)
    (m : Memory) : ChangedOnly s.IsDstByte m (memWrite m s.dstAddr.toNat bs) := by
  have hdst := hin.dst_inside
  refine memWrite_changedOnly (fun a h1 h2 => ⟨(Region.contains_iff _ a).2 ⟨h1, ?_⟩, by omega⟩) m
  simp only [State.dstRegion]
  omega

/-- The CBC stage writes the destination (R73). -/
theorem cipherStage_changedOnly {s : State} {i : Instr} {k : KeyIv} (ha : s.InputsAccepted)
    (hd : s.DecryptsWith k.key k.iv i) : ChangedOnly s.IsDstByte s.mem (cipherStage k s).mem :=
  memWrite_dst_changedOnly ha.inside (cbcStage_length ha hd) s.mem

/-- A late failure writes the destination again, over what the CBC stage left there (R79). -/
theorem raiseCmdError_cipherStage_changedOnly {s : State} {i : Instr} {k : KeyIv} (ha : s.InputsAccepted)
    (hd : s.DecryptsWith k.key k.iv i) (e : CmdError) :
    ChangedOnly s.IsDstByte s.mem (raiseCmdError e (cipherStage k s)).mem := by
  rw [raiseCmdError_mem]
  split
  · exact (cipherStage_changedOnly ha hd).trans (memWrite_dst_changedOnly ha.inside (drawBytes_length _ _) _)
  · exact cipherStage_changedOnly ha hd

theorem raiseCmdError_early_mem {e : CmdError} (he : e.early) (s : State) : (raiseCmdError e s).mem = s.mem := by
  rw [raiseCmdError_early e s he]
  rfl

/-- A command changes existing bytes of a decrypt command's destination alone (R46). -/
theorem exec_changedOnly {i : Instr} {s t : State} (h : exec i s = .next t) :
    ChangedOnly (fun a => i ≠ .classify ∧ s.IsDstByte a) s.mem t.mem := by
  rcases exec_cases h with ⟨e, he, rfl, -⟩ | ⟨hi, ha, k, e, hd, rfl, -⟩ | ⟨hi, ha, k, r, hd, -, rfl⟩ | ⟨-, -, rfl⟩
  · rw [raiseCmdError_early_mem he]
    exact .refl _ _
  · exact (raiseCmdError_cipherStage_changedOnly ha hd e).mono fun _ hb => ⟨hi, hb⟩
  · exact (cipherStage_changedOnly ha hd).mono fun _ hb => ⟨hi, hb⟩
  · exact .refl _ _

/-- The commands that have a destination region (R30). -/
theorem decryptInFlight_iff (s : State) :
    s.decryptInFlight = true ↔ s.status.busy = true ∧ ∃ i, decode s.pendingWord = .ok i ∧ i ≠ .classify := by
  unfold State.decryptInFlight
  cases decode s.pendingWord with
  | error e => simp
  | ok i => cases i <;> simp

/-- A reset changes existing bytes of the destination of the decrypt command that it abandons alone (R147, R148). -/
theorem resetInput_changedOnly (s : State) :
    ChangedOnly (fun a => s.decryptInFlight = true ∧ s.IsDstByte a) s.mem (resetInput s).mem := by
  rw [resetInput_mem]
  split
  next hf =>
    refine memWrite_changedOnly (fun a h1 h2 => ?_) s.mem
    rw [drawBytes_length, State.dstBytesInMemory] at h2
    have hin : s.dstRegion.contains a = true := by
      rw [Region.contains_iff]
      simp only [State.dstRegion]
      omega
    exact ⟨hf, hin, by omega⟩
  next => exact .refl _ _

/-- A register write changes no byte of the data memory. -/
theorem writeReg_mem (s : State) (r : Reg) (v : Word) : (s.writeReg r v).mem = s.mem := by
  rcases writeReg_cases s r v with
    hw | ⟨-, hw⟩ | ⟨-, hw⟩ | ⟨-, -, hw⟩ | ⟨-, -, hw⟩ | ⟨-, -, hw⟩ <;> simp [hw]

/-- A HOST access changes the existing byte that it writes, or is a reset. -/
theorem hostAccess_changedOnly {op : HostOp} {s t : State} (h : hostAccess op s = .next t) :
    ChangedOnly (fun a => a < s.memSize ∧ ((∃ addr b, op = .memWrite addr b ∧ addr.toNat = a) ∨
      op = .reset ∧ t.status.busy = false ∧ s.decryptInFlight = true ∧ s.dstRegion.contains a = true)) s.mem t.mem := by
  rcases hostAccess_cases h with
    ⟨r, v, -, rfl⟩ | ⟨x, rfl⟩ | ⟨x, -, -, rfl⟩ | ⟨addr, b, hop, hlt, -, rfl⟩ | ⟨hop, rfl⟩ | rfl
  · rw [writeReg_mem]
    exact .refl _ _
  · exact .refl _ _
  · exact .refl _ _
  · exact writeByte_changedOnly ⟨hlt, .inl ⟨addr, b, hop, rfl⟩⟩ s.mem b
  · exact (resetInput_changedOnly s).mono fun a ⟨hf, hdst, hlt⟩ => ⟨hlt, .inr ⟨hop, rfl, hf, hdst⟩⟩
  · exact .refl _ _

/-- What must be so for the step from `s` to `t` to change byte `a` (R46, R147, R148): the HOST writes it; or it is in the
destination of the decrypt command in flight, which completes or is abandoned. -/
def StepMayChange (s t : State) (a : Nat) : Prop :=
  (∃ addr b rest, s.script = .memWrite addr b :: rest ∧ addr.toNat = a) ∨
  (s.status.busy = true ∧ s.dstRegion.contains a = true ∧ (∃ i, decode s.pendingWord = .ok i ∧ i ≠ .classify) ∧
    t.status.busy = false ∧
    (complete { s with schedule := s.schedule.tail } = .next t ∨ ∃ rest, s.script = .reset :: rest))

theorem step_changedOnly {s t : State} (h : step s = .next t) :
    ChangedOnly (fun a => a < s.memSize ∧ StepMayChange s t a) s.mem t.mem := by
  rcases step_cases h with ⟨i, hb, hd, hx⟩ | ⟨e, -, -, rfl⟩ | ⟨op, ops, hop, hx⟩ | rfl
  · have hc := (complete_of_decode_ok (s := { s with schedule := s.schedule.tail }) hd).trans hx
    obtain ⟨hidle, -⟩ := exec_completes hx
    exact (exec_changedOnly hx).mono fun a ⟨hi, hdst, hlt⟩ => ⟨hlt, .inr ⟨hb, hdst, ⟨i, hd, hi⟩, hidle, .inl hc⟩⟩
  · exact .refl _ _
  · refine (hostAccess_changedOnly hx).mono fun a ⟨hlt, ha⟩ => ⟨hlt, ?_⟩
    rcases ha with ⟨addr, b, rfl, haddr⟩ | ⟨rfl, hidle, hf, hdst⟩
    · exact .inl ⟨addr, b, ops, hop, haddr⟩
    · obtain ⟨hb, hi⟩ := (decryptInFlight_iff _).1 hf
      exact .inr ⟨hb, hdst, hi, hidle, .inr ⟨ops, hop⟩⟩
  · exact .refl _ _

theorem step_memSize {s t : State} (h : step s = .next t) : t.memSize = s.memSize := by
  rw [State.memSize, step_params h, State.memSize]

/-! ### The HOST's accesses to the data memory -/

theorem hostAccess_memWrite_past {s : State} {addr : Word} (h : s.memSize ≤ addr.toNat) (b : Byte) :
    hostAccess (.memWrite addr b) s = .fault (.noSuchAddress addr) := by
  simp [hostAccess, hostMemWrite, h]

theorem hostAccess_memRead_past {s : State} {addr : Word} (h : s.memSize ≤ addr.toNat) :
    hostAccess (.memRead addr) s = .fault (.noSuchAddress addr) := by
  simp [hostAccess, hostMemRead, h]

/-- A write of an existing byte goes on exactly when it does not race (R52). -/
theorem hostAccess_memWrite {s : State} {addr : Word} (h : addr.toNat < s.memSize) (b : Byte) :
    hostAccess (.memWrite addr b) s =
      if s.writeRaces addr.toNat then .fault (.hostRace .write addr)
      else .next { s with mem := writeByte s.mem addr.toNat b } := by
  simp only [hostAccess, hostMemWrite, if_neg (Nat.not_le.2 h)]

/-- A read of an existing byte goes on exactly when it does not race (R52). -/
theorem hostAccess_memRead {s : State} {addr : Word} (h : addr.toNat < s.memSize) :
    hostAccess (.memRead addr) s =
      if s.readRaces addr.toNat then .fault (.hostRace .read addr)
      else .next (s.observe (.mem addr (readByte s.mem addr.toNat))) := by
  simp only [hostAccess, hostMemRead, if_neg (Nat.not_le.2 h)]

/-- A read races with the destination of a decrypt command in flight. -/
theorem readRaces_iff (s : State) (a : Nat) :
    s.readRaces a = true ↔ s.decryptInFlight = true ∧ s.dstRegion.contains a = true := by
  unfold State.readRaces State.flightDst
  cases s.decryptInFlight <;> simp

/-- A write races with what a read races with, and with an input of the command in flight. -/
theorem writeRaces_iff (s : State) (a : Nat) :
    s.writeRaces a = true ↔ (∃ r ∈ s.flightInputs, r.contains a = true) ∨ s.readRaces a = true := by
  simp [State.writeRaces, State.readRaces]

/-- The input regions of the command in flight (R52). -/
theorem flightInputs_contains_iff {s : State} {i : Instr} (hb : s.status.busy = true) (hd : decode s.pendingWord = .ok i)
    (a : Nat) : (∃ r ∈ s.flightInputs, r.contains a = true) ↔ s.srcRegion.contains a = true ∨
      i ≠ .classify ∧ (s.keyRegion.contains a = true ∨ s.ivRegion.contains a = true) := by
  unfold State.flightInputs
  rw [if_pos hb, hd]
  cases i <;> simp

theorem readRaces_inFlight_iff {s : State} {i : Instr} (hb : s.status.busy = true) (hd : decode s.pendingWord = .ok i)
    (a : Nat) : s.readRaces a = true ↔ i ≠ .classify ∧ s.dstRegion.contains a = true := by
  simp [readRaces_iff, decryptInFlight_iff, hb, hd]

theorem writeRaces_inFlight_iff {s : State} {i : Instr} (hb : s.status.busy = true) (hd : decode s.pendingWord = .ok i)
    (a : Nat) : s.writeRaces a = true ↔ s.srcRegion.contains a = true ∨
      i ≠ .classify ∧ (s.keyRegion.contains a = true ∨ s.ivRegion.contains a = true ∨ s.dstRegion.contains a = true) := by
  rw [writeRaces_iff, flightInputs_contains_iff hb hd, readRaces_inFlight_iff hb hd]
  tauto

/-- No command is in flight, or an illegal word, which has no region (assumption 10). -/
def State.NoRegionInFlight (s : State) : Prop := s.status.busy = false ∨ ∃ e, decode s.pendingWord = .error e

theorem State.NoRegionInFlight.readRaces {s : State} (h : s.NoRegionInFlight) (a : Nat) : s.readRaces a = false := by
  rw [← Bool.not_eq_true, readRaces_iff, decryptInFlight_iff]
  rcases h with hb | ⟨e, hd⟩
  · simp [hb]
  · simp [hd]

theorem State.NoRegionInFlight.writeRaces {s : State} (h : s.NoRegionInFlight) (a : Nat) : s.writeRaces a = false := by
  have hinputs : s.flightInputs = [] := by
    unfold State.flightInputs
    rcases h with hb | ⟨e, hd⟩
    · simp [hb]
    · simp [hd]
  rw [← Bool.not_eq_true, writeRaces_iff, h.readRaces]
  simp [hinputs]

theorem State.NoRegionInFlight.memRead_next {s : State} (h : s.NoRegionInFlight) {addr : Word}
    (hlt : addr.toNat < s.memSize) :
    hostAccess (.memRead addr) s = .next (s.observe (.mem addr (readByte s.mem addr.toNat))) := by
  rw [hostAccess_memRead hlt, h.readRaces]
  rfl

theorem State.NoRegionInFlight.memWrite_next {s : State} (h : s.NoRegionInFlight) {addr : Word}
    (hlt : addr.toNat < s.memSize) (b : Byte) :
    hostAccess (.memWrite addr b) s = .next { s with mem := writeByte s.mem addr.toNat b } := by
  rw [hostAccess_memWrite hlt, h.writeRaces]
  rfl

/-- No register reads the data memory. -/
theorem regWord_mem (s : State) (m : Memory) (q : Reg) : { s with mem := m }.regWord q = s.regWord q := by
  cases q <;> rfl

/-! ### The first check that fails (R71) -/

/-- A non-empty region that ends inside the memory is passed over (R44). -/
theorem regionsCheck_cons_inside {n : Nat} {r : Region} (h : r.addr + r.len ≤ n) (f : ErrField)
    (rest : List (ErrField × Region)) : regionsCheck n ((f, r) :: rest) = regionsCheck n rest := by
  rw [regionsCheck, if_pos ((r.valid_iff n).2 (.inr h))]

/-- A non-empty region that runs past the end of the memory is reported (R44). -/
theorem regionsCheck_cons_past {n : Nat} {r : Region} (hlen : r.len ≠ 0) (h : n < r.addr + r.len) (f : ErrField)
    (rest : List (ErrField × Region)) :
    regionsCheck n ((f, r) :: rest) = some { code := .busError, field := f, exp := 0, act := BitVec.ofNat 32 r.addr } := by
  have hinvalid : ¬r.valid n = true := by
    rw [r.valid_iff]
    omega
  rw [regionsCheck, if_neg hinvalid]

/-- After the Input Validator, the region checks (row 5 of R71). -/
theorem decryptChecks_of_regionsCheck {s : State} (ht : s.TextsAccepted) {e : CmdError}
    (h : regionsCheck s.memSize s.decryptRegions = some e) : decryptChecks s = some e := by
  rw [decryptChecks, (validateText_eq_none_iff s).2 ht, h]

/-- After the region checks, the overlap check (row 6 of R71). -/
theorem decryptChecks_eq_overlapCheck {s : State} (ht : s.TextsAccepted) (hin : s.RegionsInside) :
    decryptChecks s = overlapCheck s := by
  rw [decryptChecks, (validateText_eq_none_iff s).2 ht, (decryptRegions_check_iff s ht).2 hin]

/-- A decrypt command whose regions fail the check reports the first that does as BusError, with its address. -/
theorem exec_busError {s : State} {i : Instr} (hi : i ≠ .classify) (ht : s.TextsAccepted) {f : ErrField} {addr : Word}
    (h : regionsCheck s.memSize s.decryptRegions =
      some { code := .busError, field := f, exp := 0, act := BitVec.ofNat 32 addr.toNat }) :
    exec i s = .next (s.failedWith .busError f 0 addr) := by
  rw [exec_decryptChecks hi (decryptChecks_of_regionsCheck ht h)]
  simp

/-- A decrypt command whose destination overlaps an input reports the first that it does. -/
theorem exec_bufferOverlap {s : State} {i : Instr} (hi : i ≠ .classify) (ht : s.TextsAccepted) (hin : s.RegionsInside)
    {f : ErrField} (h : overlapCheck s = some { code := .bufferOverlap, field := f, exp := 0, act := 0 }) :
    exec i s = .next (s.failedWith .bufferOverlap f 0 0) :=
  exec_decryptChecks hi ((decryptChecks_eq_overlapCheck ht hin).trans h)

/-- Regions that share no byte do not overlap (R43). -/
theorem Region.overlaps_eq_false {r t : Region} (h : ∀ a, ¬(r.contains a = true ∧ t.contains a = true)) :
    r.overlaps t = false := by
  rw [← Bool.not_eq_true, r.overlaps_iff_shared]
  exact not_exists.2 h

/-! ### Whose turn a step is (assumption 2) -/

theorem step_host {s : State} {rest : List Agent} (h : s.schedule = .host :: rest) :
    step s = hostTurn { s with schedule := rest } := by
  rw [step, nextTurn, h]

theorem step_engine {s : State} {rest : List Agent} (h : s.schedule = .engine :: rest) :
    step s = engineTurn { s with schedule := rest } := by
  rw [step, nextTurn, h]

/-- With no turn scheduled and no command in flight, the HOST moves. -/
theorem step_unscheduled_idle {s : State} (h : s.schedule = []) (hb : s.status.busy = false) : step s = hostTurn s := by
  rw [step, nextTurn, h]
  simp [hb]

theorem hostTurn_nil {s : State} (h : s.script = []) : hostTurn s = .next s := by
  rw [hostTurn, h]

theorem hostTurn_cons {s : State} {op : HostOp} {ops : List HostOp} (h : s.script = op :: ops) :
    hostTurn s = hostAccess op { s with script := ops } := by
  rw [hostTurn, h]

theorem engineTurn_idle {s : State} (hb : s.status.busy = false) : engineTurn s = .next s := by
  simp [engineTurn, hb]

/-! ### The obligations -/

/-- Settles O53: the bytes that a step may write exist, and writing keeps the canonical form. -/
theorem memoryStaysCanonicalAndInside : Obligations.MemoryStaysCanonicalAndInside := by
  intro s t hwf hin h
  have hchange := step_changedOnly h
  refine ⟨hchange.keeps_wf hwf, fun c hc => ?_⟩
  rw [step_memSize h]
  rcases hchange.new_cell c hc with ⟨hlt, -⟩ | hold
  · exact hlt
  · exact hin c hold

/-- Settles O14: the access goes on exactly when it does not race, and with a command in flight the races are those with
its regions. -/
theorem touchingAFlightRegionIsHostRace : Obligations.TouchingAFlightRegionIsHostRace := by
  intro s i addr b hb hd hlt
  rw [hostAccess_memWrite hlt, hostAccess_memRead hlt, ← writeRaces_inFlight_iff hb hd, ← readRaces_inFlight_iff hb hd]
  exact ⟨fun h => if_pos h, fun h => if_neg h, fun h => if_pos h, fun h => if_neg h⟩

/-- Settles O15: no access races, and the memory after the write reads the byte written and otherwise as before. -/
theorem hostMemoryAccess : Obligations.HostMemoryAccess := by
  intro s addr b hno
  have hno : s.NoRegionInFlight := hno
  refine ⟨hno.memRead_next, fun hlt => ?_, fun hge => ⟨hostAccess_memWrite_past hge b, hostAccess_memRead_past hge⟩⟩
  have hwritten : State.NoRegionInFlight { s with mem := writeByte s.mem addr.toNat b } := hno
  have hread := hwritten.memRead_next hlt
  rw [readByte_writeByte, if_pos rfl] at hread
  exact ⟨_, hno.memWrite_next hlt b, hread, fun a ha => by rw [readByte_writeByte, if_neg ha], regWord_mem s _, rfl⟩

/-- Settles O27: each region that ends inside the memory is passed over, and the first that does not is reported. -/
theorem firstRegionPastMemoryIsBusError : Obligations.FirstRegionPastMemoryIsBusError := by
  intro s i hi ht
  have hklen := toNat_ne_zero ht.key_nonempty
  have hilen := toNat_ne_zero ht.iv_nonempty
  have hslen := toNat_ne_zero ht.src_nonempty
  refine ⟨fun hpast => exec_busError hi ht ?_, fun hk hpast => exec_busError hi ht ?_,
    fun hk hv hpast => exec_busError hi ht ?_, fun hk hv hs hpast => exec_busError hi ht ?_,
    fun a => ⟨Region.contains_iff _ a, Region.contains_iff _ a, Region.contains_iff _ a, Region.contains_iff _ a⟩⟩ <;>
    rw [State.decryptRegions]
  · exact regionsCheck_cons_past hklen hpast _ _
  · rw [regionsCheck_cons_inside hk]
    exact regionsCheck_cons_past hilen hpast _ _
  · rw [regionsCheck_cons_inside hk, regionsCheck_cons_inside hv]
    exact regionsCheck_cons_past hslen hpast _ _
  · rw [regionsCheck_cons_inside hk, regionsCheck_cons_inside hv, regionsCheck_cons_inside hs]
    exact regionsCheck_cons_past hslen hpast _ _

/-- Settles O28: regions overlap exactly when they share a byte, and the first overlap in the check's order is reported. -/
theorem firstOverlapIsBufferOverlap : Obligations.FirstOverlapIsBufferOverlap := by
  intro s i hi ht hin
  refine ⟨fun hsrc => exec_bufferOverlap hi ht hin ?_, fun hsrc => ⟨fun hkey => exec_bufferOverlap hi ht hin ?_,
    fun hkey => ⟨fun hiv => exec_bufferOverlap hi ht hin ?_, fun hiv => ?_⟩⟩⟩
  · rw [overlapCheck, if_pos ((Region.overlaps_iff_shared _ _).2 hsrc)]
  · simp [overlapCheck, Region.overlaps_eq_false hsrc, (Region.overlaps_iff_shared _ _).2 hkey]
  · simp [overlapCheck, Region.overlaps_eq_false hsrc, Region.overlaps_eq_false hkey,
      (Region.overlaps_iff_shared _ _).2 hiv]
  · rw [← decryptChecks_eq_none_iff, decryptChecks_eq_overlapCheck ht hin]
    simp [overlapCheck, Region.overlaps_eq_false hsrc, Region.overlaps_eq_false hkey, Region.overlaps_eq_false hiv]

/-- Settles O54, from the cells of a canonical memory and the laws of `memRead` and `memWrite`. -/
theorem canonicalMemoriesAreDeterminedByReads : Obligations.CanonicalMemoriesAreDeterminedByReads := by
  refine ⟨fun _ _ => memory_ext, fun m addr n => ⟨memRead_length m addr n, memRead_getD m addr n⟩,
    fun m addr v => ⟨fun i hi => ?_, readByte_memWrite_outside m addr v⟩⟩
  rw [readByte_memWrite, if_pos (by omega), Nat.add_sub_cancel_left]

/-- Settles O59: every byte reads as before but those that the step may change. -/
theorem whatChangesMemory : Obligations.WhatChangesMemory := by
  intro s t a h hne
  by_contra hno
  exact hne ((step_changedOnly h).frame a fun ⟨_, hmay⟩ => hno hmay)

/-- Settles O11: such an access does not have the form of R38. -/
theorem malformedRegisterAccessIsRefused : Obligations.MalformedRegisterAccessIsRefused := by
  intro s bits off v hbad
  have hwf : ¬windowAccessWf bits off = true := by
    rw [windowAccessWf_iff]
    tauto
  exact ⟨if_neg hwf, if_neg hwf⟩

/-- Settles O19: the head of the schedule, or with none left `BUSY`, says whose turn it is. -/
theorem stepRunsTheHostAccess : Obligations.StepRunsTheHostAccess := by
  intro s op ops rest
  exact ⟨fun hsch hops => (step_host hsch).trans (hostTurn_cons hops),
    fun hsch hb hops => (step_unscheduled_idle hsch hb).trans (hostTurn_cons hops),
    fun hsch hops => (step_host hsch).trans (hostTurn_nil hops),
    fun hsch hb => (step_engine hsch).trans (engineTurn_idle hb),
    fun hsch hb hops => (step_unscheduled_idle hsch hb).trans (hostTurn_nil hops)⟩

end Sys2Proof.Machine
end

section
/-! PROOF. The statements about the encoding (30_encoding.md): the decoder against the opcode map, the script's lines, and
what the ENGINE does with the word in flight. -/
namespace Sys2Proof

/-! ### The two fields of a command word (R56) -/

theorem rsvdField_append_opcodeField (c : Word) : rsvdField c ++ opcodeField c = c := by
  rw [rsvdField, opcodeField, BitVec.extractLsb'_append_extractLsb'_eq_extractLsb' (show 4 = 0 + 4 from rfl)]
  exact BitVec.extractLsb'_eq_self

theorem word_eq_iff_fields {c d : Word} : c = d ↔ rsvdField c = rsvdField d ∧ opcodeField c = opcodeField d := by
  refine ⟨fun h => h ▸ ⟨rfl, rfl⟩, fun ⟨hr, ho⟩ => ?_⟩
  rw [← rsvdField_append_opcodeField c, ← rsvdField_append_opcodeField d, hr, ho]

@[simp] theorem rsvdField_encode (i : Instr) : rsvdField (encode i) = 0 := BitVec.extractLsb'_append_eq_left

@[simp] theorem opcodeField_encode (i : Instr) : opcodeField (encode i) = i.opcode := BitVec.extractLsb'_append_eq_right

/-! ### The decoder (R57-R59) -/

theorem opcodeMap_eq_some_iff (op : BitVec 4) (i : Instr) : opcodeMap op = some i ↔ op = i.opcode := by
  cases i <;> revert op <;> decide

/-- The opcodes that R59 lists. -/
theorem opcodeMap_unassigned : ∀ op : BitVec 4, op = 0 ∨ 5 ≤ op.toNat → opcodeMap op = none := by decide

theorem decode_of_reservedBits {c : Word} (h : rsvdField c ≠ 0) : decode c = .error .reservedBits := if_pos h

theorem decode_of_rsvdField_eq_zero {c : Word} (h : rsvdField c = 0) :
    decode c = (opcodeMap (opcodeField c)).elim (.error .unassignedOpcode) .ok := by
  rw [decode, if_neg (not_not.2 h)]
  cases opcodeMap (opcodeField c) <;> rfl

theorem decode_of_unassignedOpcode {c : Word} (hr : rsvdField c = 0) (ho : opcodeMap (opcodeField c) = none) :
    decode c = .error .unassignedOpcode := by
  rw [decode_of_rsvdField_eq_zero hr, ho, Option.elim_none]

/-- THE DECODER, SAID ONCE: the words that decode are the encodings, each to its own command (R58). -/
theorem decode_eq_ok_iff (c : Word) (i : Instr) : decode c = .ok i ↔ c = encode i := by
  rw [word_eq_iff_fields, rsvdField_encode, opcodeField_encode]
  by_cases hr : rsvdField c = 0
  · rw [decode_of_rsvdField_eq_zero hr, ← opcodeMap_eq_some_iff]
    cases opcodeMap (opcodeField c) <;> simp [hr]
  · rw [decode_of_reservedBits hr]
    exact iff_of_false nofun fun h => hr h.1

@[simp] theorem decode_encode (i : Instr) : decode (encode i) = .ok i := (decode_eq_ok_iff _ i).2 rfl

theorem decode_isError_of_ne_encode {c : Word} (h : ∀ i, c ≠ encode i) : ∃ e, decode c = .error e := by
  cases hd : decode c with
  | error e => exact ⟨e, rfl⟩
  | ok i => exact absurd ((decode_eq_ok_iff c i).1 hd) (h i)

/-- The illegal encodings that R59 lists: a reserved bit set, or an opcode outside the map. -/
theorem decode_isError_of_fields {c : Word}
    (h : rsvdField c ≠ 0 ∨ opcodeField c = 0 ∨ 5 ≤ (opcodeField c).toNat) : ∃ e, decode c = .error e := by
  by_cases hr : rsvdField c = 0
  · exact ⟨_, decode_of_unassignedOpcode hr (opcodeMap_unassigned _ (h.resolve_left (not_not.2 hr)))⟩
  · exact ⟨_, decode_of_reservedBits hr⟩

/-! ### The byte lanes (R40) -/

theorem wordOfLanes_lanes (c : Word) :
    wordOfLanes (c.extractLsb' 0 8) (c.extractLsb' 8 8) (c.extractLsb' 16 8) (c.extractLsb' 24 8) = c := by
  rw [wordOfLanes, BitVec.extractLsb'_append_extractLsb'_eq_extractLsb' (show 24 = 16 + 8 from rfl),
    BitVec.extractLsb'_append_extractLsb'_eq_extractLsb' (show 16 = 8 + 8 from rfl),
    BitVec.extractLsb'_append_extractLsb'_eq_extractLsb' (show 8 = 0 + 8 from rfl)]
  exact BitVec.extractLsb'_eq_self

theorem decodeLanes_lanesOfWord {c : Word} {i : Instr} (h : decode c = .ok i) :
    decodeLanes (lanesOfWord c) = .ok (i, []) := by
  rw [lanesOfWord, decodeLanes, wordOfLanes_lanes, h]

end Sys2Proof

namespace Sys2Proof.Machine

/-! ### The launch and the ENGINE's turn (R67, R69, R133) -/

theorem hostAccess_cmdWrite_idle {s : State} (hb : s.status.busy = false) (c : Word) :
    hostAccess (.regWrite 32 Reg.cmd.offset c) s = .next (launch c s) := by
  simp [hostAccess_regWrite, State.writeReg, State.unlessBusy, hb]

theorem engineTurn_busy {s : State} (hb : s.status.busy = true) : engineTurn s = complete s := if_pos hb

/-- With no turn scheduled and a command in flight, the ENGINE moves. -/
theorem step_unscheduled_busy {s : State} (h : s.schedule = []) (hb : s.status.busy = true) : step s = complete s := by
  rw [step, nextTurn, h]
  simp only [if_pos hb, engineTurn_busy hb]

theorem step_engine_busy {s : State} {rest : List Agent} (h : s.schedule = .engine :: rest) (hb : s.status.busy = true) :
    step s = complete { s with schedule := rest } :=
  (step_engine h).trans (engineTurn_busy hb)

theorem complete_illegal {s : State} {c : Word} {e : Illegal} (hp : s.pending = some c) (hd : decode c = .error e) :
    complete s = .next (s.failedWith .illegalCommand .none 0 c) := by
  have hw : s.pendingWord = c := by rw [State.pendingWord, hp, Option.getD_some]
  rw [complete_of_decode_error (hw ▸ hd), illegalCommand_eq, hw]

/-- The word that `withFetchWord` places is the next to complete, on the launched state (assumption 3). -/
theorem step_withFetchWord (s : State) (c : Word) : step (s.withFetchWord 32 c.toNat) = complete (launch c s) := by
  rw [State.withFetchWord, Nat.mod_eq_of_lt c.isLt, BitVec.ofNat_toNat, BitVec.setWidth_eq]
  exact step_engine_busy (launchForEngine_schedule c s) rfl

/-! ### `wait` (R63) -/

/-- A poll reads `STATUS` once, and stays in the script until the word it reads shows `DONE`. -/
theorem hostAccess_waitDone (s : State) : hostAccess .waitDone s = .next
    (if s.status.word.getLsbD 1 then s.observe (.reg Reg.status.offset s.status.word)
     else { s.observe (.reg Reg.status.offset s.status.word) with script := .waitDone :: s.script }) := by
  obtain ⟨-, hdone, -, -⟩ := s.status.word_flags
  rw [hdone]
  simp only [hostAccess, hostPoll, hostRegRead, readOffset_of_offset, State.regWord, observe_script]

/-! ### The obligations -/

/-- Settles O2: the words that decode are the four encodings, written out. -/
theorem onlyTheMappedWordsAreCommands : Obligations.OnlyTheMappedWordsAreCommands := by
  refine ⟨fun c i => ?_, fun _ => decode_isError_of_ne_encode⟩
  rw [decode_eq_ok_iff]
  cases i <;> simp [encode, Instr.opcode]

/-- Settles O21: the word is launched, it does not decode, and its completion is the report of IllegalCommand on the
launched state, whose results are 0. -/
theorem illegalWordsReportIllegalCommand : Obligations.IllegalWordsReportIllegalCommand := by
  intro s c hc hb
  obtain ⟨e, hd⟩ := decode_isError_of_fields hc
  exact ⟨launch c s, hostAccess_cmdWrite_idle hb c, rfl, (engineTurn_busy rfl).trans (complete_illegal rfl hd)⟩

/-- Settles O1: the lanes of a word put together are the word. -/
theorem decodeOfEncodeIsTheCommand : Obligations.DecodeOfEncodeIsTheCommand := fun i _ =>
  ⟨decode_encode i, decodeLanes_lanesOfWord (decode_encode i)⟩

/-- Settles O3: the four encodings, three words whose opcode is unassigned, and two words with a reserved bit set. -/
theorem wordsOfTheOpcodeMap : Obligations.WordsOfTheOpcodeMap :=
  ⟨decode_encode .decrypt, decode_encode .classify, decode_encode .decryptClassify, decode_encode .decryptRaw,
    decode_of_unassignedOpcode rfl rfl, decode_of_unassignedOpcode rfl rfl, decode_of_unassignedOpcode rfl rfl,
    decode_of_reservedBits (by decide), decode_of_reservedBits (by decide)⟩

/-- Settles O4: the rows of R62 to R64 are the clauses of `ScriptLine.triples` and `Triple.hostOp`; `wait` is a poll of
`STATUS`, whose bit 1 is `DONE`. -/
theorem pseudoInstructionExpansions : Obligations.PseudoInstructionExpansions :=
  ⟨fun _ _ => rfl, fun _ _ => rfl, fun _ => rfl, fun _ => rfl, fun _ _ => rfl, rfl, fun _ _ => rfl, fun _ _ => rfl,
    fun _ => rfl, fun _ => rfl, rfl, hostAccess_waitDone, fun _ => rfl, rfl, rfl, fun _ _ => rfl, fun _ _ => rfl,
    fun _ _ => rfl, fun _ => rfl⟩

/-- Settles O18: on the ENGINE's turn a step is the completion of the word in flight, which is `exec` of the command it
decodes to, or the report of IllegalCommand. -/
theorem stepRunsTheDecodedCommand : Obligations.StepRunsTheDecodedCommand := by
  refine ⟨fun s i hb hd => ⟨fun hsch => ?_, fun rest hsch => ?_⟩,
    fun s c e hb hp hd => ⟨fun hsch => ?_, fun rest hsch => ?_⟩, fun s i => ?_, fun s c e hd => ?_⟩
  · exact (step_unscheduled_busy hsch hb).trans (complete_of_decode_ok hd)
  · exact (step_engine_busy hsch hb).trans (complete_of_decode_ok (s := { s with schedule := rest }) hd)
  · exact (step_unscheduled_busy hsch hb).trans (complete_illegal hp hd)
  · exact (step_engine_busy hsch hb).trans (complete_illegal (s := { s with schedule := rest }) hp hd)
  · exact (step_withFetchWord s (encode i)).trans (complete_of_decode_ok (decode_encode i))
  · exact (step_withFetchWord s c).trans (complete_illegal rfl hd)

end Sys2Proof.Machine
end

section
/-! PROOF. The statements about the decrypt commands (40_decrypt.md): the order of their checks, how they end, what they
leave alone, what their outcome depends on, and what the HOST can do while one is in flight. -/
namespace Sys2Proof.Machine

/-! ### The plaintext: its padding, its place in memory, its classification -/

/-- A plaintext is the buffer without its padding (R112, R114). -/
theorem pkcs7Unpad_eq_append {buf r : List Byte} (h : pkcs7Unpad buf = .plaintext r) (h16 : 16 ≤ buf.length) :
    ∃ n, 1 ≤ n ∧ n ≤ 16 ∧ buf = r ++ List.replicate n (BitVec.ofNat 8 n) := by
  simp only [pkcs7Unpad] at h
  generalize buf.getD (buf.length - 1) 0 = last at h
  split at h
  · cases h
  next hrange =>
    split at h
    next hall =>
      split at h
      · cases h
      · obtain rfl := Unpadded.plaintext.inj h
        have htail : buf.drop (buf.length - last.toNat) = List.replicate last.toNat last :=
          List.eq_replicate_iff.2 ⟨by rw [List.length_drop]; omega, by simpa using hall⟩
        refine ⟨last.toNat, by omega, by omega, ?_⟩
        rw [BitVec.ofNat_toNat, BitVec.setWidth_eq, ← htail, List.take_append_drop]
    · cases h

/-- A read of the first bytes of what a region holds. -/
theorem memRead_append_left {m : Memory} {addr : Nat} {bs cs : List Byte}
    (h : memRead m addr (bs ++ cs).length = bs ++ cs) : memRead m addr bs.length = bs := by
  induction bs generalizing addr with
  | nil => rfl
  | cons b bs ih =>
    rw [List.cons_append, List.length_cons, memRead, List.cons.injEq] at h
    obtain ⟨hb, hbs⟩ := h
    rw [List.length_cons, memRead, hb, ih hbs]

theorem readByte_memWrite_padding (m : Memory) {addr a n : Nat} {bs : List Byte} (h1 : addr + bs.length ≤ a)
    (h2 : a < addr + (bs.length + n)) (b : Byte) :
    readByte (memWrite m addr (bs ++ List.replicate n b)) a = b := by
  have hlen : (bs ++ List.replicate n b).length = bs.length + n := by simp
  rw [readByte_memWrite, hlen, if_pos (by omega), List.getD_append_right _ _ _ _ (by omega),
    List.getD_replicate _ (by omega)]

theorem Cls.ofTag_eq (t : Tag) : Cls.ofTag t = { tag := t, valid := decide (t ≠ .unknown) } := by
  cases t <;> rfl

/-! ### The first failure before the CBC stage (R71) -/

/-- The error of a key and an IV that are not found. -/
def keyIvError : Except CmdError KeyIv → Option CmdError
  | .error e => some e
  | .ok _ => none

theorem keyIvError_eq_some_iff (keys : Except CmdError KeyIv) (e : CmdError) :
    keyIvError keys = some e ↔ keys = .error e := by
  cases keys <;> simp [keyIvError]

theorem keyIvError_eq_none_iff (keys : Except CmdError KeyIv) : keyIvError keys = none ↔ ∃ k, keys = .ok k := by
  cases keys <;> simp [keyIvError]

/-- The error that a command raises before it writes a byte: rows 1-12 of R71, or the region check of CLASSIFY. -/
def earlyError (i : Instr) (s : State) : Option CmdError :=
  match i with
  | .classify => regionsCheck s.memSize s.classifyRegions
  | .decrypt => (decryptChecks s).or (keyIvError (textKeyIv s))
  | .decryptClassify => (decryptChecks s).or (keyIvError (textKeyIv s))
  | .decryptRaw => (decryptChecks s).or (keyIvError (rawKeyIv s))

theorem decryptPipeline_failed {s : State} {keys : Except CmdError KeyIv} {e : CmdError}
    (h : (decryptChecks s).or (keyIvError keys) = some e) : decryptPipeline keys s = .failed e s := by
  unfold decryptPipeline
  rcases Option.or_eq_some_iff.1 h with hc | ⟨hc, hk⟩
  · rw [hc]
  · rw [hc, (keyIvError_eq_some_iff keys e).1 hk]

theorem exec_earlyError {i : Instr} {s : State} {e : CmdError} (h : earlyError i s = some e) :
    exec i s = .next (raiseCmdError e s) := by
  cases i with
  | classify =>
    rw [earlyError] at h
    rw [exec, execClassify, h]
  | decrypt => rw [exec, execDecrypt, decryptPipeline_failed h, endDecrypt]
  | decryptClassify => rw [exec, execDecryptClassify, decryptPipeline_failed h, endDecryptClassify]
  | decryptRaw => rw [exec, execDecryptRaw, decryptPipeline_failed h, endDecrypt]

theorem inputsAccepted_of_no_error {s : State} {keys : Except CmdError KeyIv}
    (h : (decryptChecks s).or (keyIvError keys) = none) : s.InputsAccepted ∧ ∃ k, keys = .ok k := by
  obtain ⟨hc, hk⟩ := Option.or_eq_none_iff.1 h
  exact ⟨(decryptChecks_eq_none_iff s).1 hc, (keyIvError_eq_none_iff keys).1 hk⟩

/-- A decrypt command without an early error has accepted inputs, a key and an IV. -/
theorem decryptsWith_of_earlyError_eq_none {i : Instr} (hi : i ≠ .classify) {s : State} (h : earlyError i s = none) :
    s.InputsAccepted ∧ ∃ key iv, s.DecryptsWith key iv i := by
  cases i with
  | classify => exact absurd rfl hi
  | decrypt =>
    obtain ⟨ha, k, hk⟩ := inputsAccepted_of_no_error h
    exact ⟨ha, k.key, k.iv, (textKeyIv_eq_ok_iff s k).1 hk⟩
  | decryptClassify =>
    obtain ⟨ha, k, hk⟩ := inputsAccepted_of_no_error h
    exact ⟨ha, k.key, k.iv, (textKeyIv_eq_ok_iff s k).1 hk⟩
  | decryptRaw =>
    obtain ⟨ha, k, hk⟩ := inputsAccepted_of_no_error h
    exact ⟨ha, k.key, k.iv, (rawKeyIv_eq_ok_iff s k).1 hk⟩

/-! ### Which codes the checks report -/

theorem decryptChecks_of_validateText {s : State} {e : CmdError} (h : validateText s = some e) :
    decryptChecks s = some e := by
  rw [decryptChecks, h]

theorem overlapCheck_code {s : State} {e : CmdError} (h : overlapCheck s = some e) : e.code = .bufferOverlap := by
  unfold overlapCheck at h
  repeat' split at h
  all_goals cases h
  all_goals rfl

/-- Rows 5 and 6 of R71. -/
theorem decryptChecks_code {s : State} (ht : s.TextsAccepted) {e : CmdError} (h : decryptChecks s = some e) :
    e.code = .busError ∨ e.code = .bufferOverlap := by
  rw [decryptChecks, (validateText_eq_none_iff s).2 ht] at h
  simp only at h
  split at h
  next hr =>
    obtain rfl := Option.some.inj h
    obtain ⟨-, hcode, -⟩ := regionsCheck_early _ _ _ hr
    exact .inl hcode
  · exact .inr (overlapCheck_code h)

theorem cbcInit_code {k v : Nat} {e : CmdError} (h : cbcInit k v = some e) : e.code = .cipherInitFailure := by
  unfold cbcInit at h
  repeat' split at h
  all_goals cases h
  all_goals rfl

/-- Rows 7-10 of R71: the cipher's own check passes on lengths that are checked already (R76). -/
theorem textKeyIv_code {s : State} {e : CmdError} (h : textKeyIv s = .error e) :
    e.code = .base64DecodeFailure ∨ e.code = .keyLengthMismatch ∨ e.code = .ivLengthMismatch := by
  unfold textKeyIv at h
  split at h
  · cases h; exact .inl rfl
  · split at h
    · cases h; exact .inl rfl
    · split at h
      · cases h; exact .inr (.inl rfl)
      next hk =>
        split at h
        · cases h; exact .inr (.inr rfl)
        next hv =>
          rw [(cbcInit_eq_none_iff _ _).2 ⟨not_not.1 hk, not_not.1 hv⟩] at h
          cases h

/-- Rows 11 and 12 of R71. -/
theorem rawKeyIv_code {s : State} {e : CmdError} (h : rawKeyIv s = .error e) : e.code = .cipherInitFailure := by
  unfold rawKeyIv at h
  split at h
  next hc =>
    cases h
    exact cbcInit_code hc
  · cases h

/-- Inputs that pass the Input Validator are never reported as its errors (R72). -/
theorem earlyError_code_of_textsAccepted {i : Instr} (hi : i ≠ .classify) {s : State} (ht : s.TextsAccepted)
    {e : CmdError} (h : earlyError i s = some e) : e.code ≠ .emptyInput ∧ e.code ≠ .unalignedCiphertext := by
  have hchecks : decryptChecks s = some e → e.code ≠ .emptyInput ∧ e.code ≠ .unalignedCiphertext := fun hc => by
    rcases decryptChecks_code ht hc with hcode | hcode <;> simp [hcode]
  have htext : keyIvError (textKeyIv s) = some e → e.code ≠ .emptyInput ∧ e.code ≠ .unalignedCiphertext := fun hk => by
    rcases textKeyIv_code ((keyIvError_eq_some_iff _ e).1 hk) with hcode | hcode | hcode <;> simp [hcode]
  cases i with
  | classify => exact absurd rfl hi
  | decrypt => exact (Option.or_eq_some_iff.1 h).elim hchecks fun hk => htext hk.2
  | decryptClassify => exact (Option.or_eq_some_iff.1 h).elim hchecks fun hk => htext hk.2
  | decryptRaw =>
    refine (Option.or_eq_some_iff.1 h).elim hchecks fun hk => ?_
    simp [rawKeyIv_code ((keyIvError_eq_some_iff _ e).1 hk.2)]

/-! ### After the CBC stage -/

/-- The end of a decrypt command that has a key and an IV, by what the Padding Remover answers (R73-R75). -/
def endAfterCbc (i : Instr) (k : KeyIv) (s : State) : Unpadded → State
  | .padFail => raiseCmdError paddingError (cipherStage k s)
  | .empty => raiseCmdError emptyError (cipherStage k s)
  | .plaintext r => finishOk (decrypted i k r s)

theorem exec_eq_endAfterCbc {s : State} {i : Instr} {key iv : List Byte} (ha : s.InputsAccepted)
    (hd : s.DecryptsWith key iv i) :
    exec i s = .next (endAfterCbc i ⟨key, iv⟩ s (pkcs7Unpad (cbcDecrypt s.ciphertext key iv))) := by
  obtain ⟨t, ht⟩ := exec_next i s
  rcases exec_cases ht with ⟨e, -, -, hno, -⟩ | ⟨-, -, k, e, hk, rfl, hu⟩ | ⟨-, -, k, r, hk, hu, rfl⟩ | ⟨rfl, -⟩
  · exact absurd ⟨ha, hd⟩ (hno key iv)
  · obtain ⟨rfl, rfl⟩ := decryptsWith_unique hd hk
    rcases hu with ⟨rfl, hu⟩ | ⟨rfl, hu⟩ <;> rw [ht, hu, endAfterCbc]
  · obtain ⟨rfl, rfl⟩ := decryptsWith_unique hd hk
    rw [ht, hu, endAfterCbc]
  · exact hd.elim

/-- The whole state after a success, from a legal machine (R73-R75, R135). -/
theorem finishOk_decrypted {s : State} (hl : s.Legal) (hb : s.status.busy = true) (i : Instr) (k : KeyIv)
    (r : List Byte) :
    finishOk (decrypted i k r s) =
      { s with
        status := Status.completed s.status.ovr .none .none
        resLen := BitVec.ofNat 32 r.length
        cls := if i = .decryptClassify then Cls.ofTag (sniff r) else s.cls
        clsSize := if i = .decryptClassify then BitVec.ofNat 32 r.length else s.clsSize
        mem := memWrite s.mem s.dstAddr.toNat (cbcDecrypt s.ciphertext k.key k.iv)
        keyBuf := none
        ivBuf := none
        keySched := none
        prev := none } := by
  rw [← legal_completed hl hb]
  rfl

theorem decryptRaw_decryptsWith {s : State} (hk : s.keyLen = 32) (hv : s.ivLen = 16) :
    s.DecryptsWith (memRead s.mem s.keyAddr.toNat 32) (memRead s.mem s.ivAddr.toNat 16) .decryptRaw :=
  ⟨by rw [hk]; rfl, by rw [hv]; rfl, rfl, rfl⟩

/-- The destination is at least one block. -/
theorem State.TextsAccepted.block_le {s : State} (ht : s.TextsAccepted) : 16 ≤ s.srcLen.toNat := by
  have := toNat_ne_zero ht.src_nonempty
  have := ht.src_aligned
  omega

/-- The decrypted buffer of a success is the plaintext with its padding bytes after it (R77). -/
theorem cbcDecrypt_eq_append {s : State} {i : Instr} {key iv r : List Byte} (ha : s.InputsAccepted)
    (hd : s.DecryptsWith key iv i) (hu : pkcs7Unpad (cbcDecrypt s.ciphertext key iv) = .plaintext r) :
    ∃ n, 1 ≤ n ∧ n ≤ 16 ∧ r.length + n = s.srcLen.toNat ∧
      cbcDecrypt s.ciphertext key iv = r ++ List.replicate n (BitVec.ofNat 8 n) := by
  have hlen := cbcStage_length ha hd
  obtain ⟨n, h1, h16, hbuf⟩ := pkcs7Unpad_eq_append hu (by rw [hlen]; exact ha.texts.block_le)
  refine ⟨n, h1, h16, ?_, hbuf⟩
  rw [← hlen, hbuf, List.length_append, List.length_replicate]

theorem legal_busy_cls {s : State} (hl : s.Legal) (hb : s.status.busy = true) : s.cls = Cls.zero ∧ s.clsSize = 0 := by
  obtain ⟨-, -, -, hcls, hsize⟩ := hl.busy_results hb
  exact ⟨hcls, hsize⟩

/-- What a late failure leaves, from a legal machine (R79, R82). -/
theorem lateFailure_report {s : State} (hl : s.Legal) (hb : s.status.busy = true) {e : CmdError}
    (he : e.code ≠ .none) (k : KeyIv) :
    (raiseCmdError e (cipherStage k s)).status = Status.completed s.status.ovr e.code e.field ∧
    (raiseCmdError e (cipherStage k s)).resLen = 0 ∧ (raiseCmdError e (cipherStage k s)).cls = Cls.zero ∧
    (raiseCmdError e (cipherStage k s)).clsSize = 0 := by
  obtain ⟨-, -, -, hlen, -, -, hcls, hsize⟩ := legal_busy hl hb
  exact ⟨by simp [Status.completed, he], hlen, hcls, hsize⟩

/-! ### What a completion leaves alone -/

theorem exec_sameSetup {i : Instr} {s t : State} (h : exec i s = .next t) : s.SameSetup t := by
  rcases exec_cases h with ⟨e, -, rfl, -⟩ | ⟨-, -, k, e, -, rfl, -⟩ | ⟨-, -, k, r, -, -, rfl⟩ | ⟨-, -, rfl⟩ <;>
    exact ⟨rfl, rfl, ⟨rfl, rfl, rfl, rfl, rfl, rfl, rfl⟩, rfl, rfl, rfl, rfl, rfl⟩

/-- Only DECRYPT_CLASSIFY and CLASSIFY write the classification. -/
theorem exec_cls {i : Instr} {s t : State} (hi : i ≠ .classify) (hc : i ≠ .decryptClassify) (h : exec i s = .next t) :
    t.cls = s.cls ∧ t.clsSize = s.clsSize := by
  rcases exec_cases h with ⟨e, -, rfl, -⟩ | ⟨-, -, k, e, -, rfl, -⟩ | ⟨-, -, k, r, -, -, rfl⟩ | ⟨rfl, -⟩
  · exact ⟨rfl, rfl⟩
  · exact ⟨rfl, rfl⟩
  · exact ⟨if_neg hc, if_neg hc⟩
  · exact absurd rfl hi

/-- A decrypt command changes the result registers only with a plaintext. -/
theorem exec_results_of_no_plaintext {i : Instr} {s t : State} (hi : i ≠ .classify) (h : exec i s = .next t)
    (hno : ∀ key iv r, ¬(s.InputsAccepted ∧ s.DecryptsWith key iv i ∧
      pkcs7Unpad (cbcDecrypt s.ciphertext key iv) = .plaintext r)) :
    t.resLen = s.resLen ∧ t.cls = s.cls ∧ t.clsSize = s.clsSize := by
  rcases exec_cases h with ⟨e, -, rfl, -⟩ | ⟨-, -, k, e, -, rfl, -⟩ | ⟨-, ha, k, r, hd, hu, -⟩ | ⟨rfl, -⟩
  · exact ⟨rfl, rfl, rfl⟩
  · exact ⟨rfl, rfl, rfl⟩
  · exact absurd ⟨ha, hd, hu⟩ (hno k.key k.iv r)
  · exact absurd rfl hi

/-- A decrypt command that does not reach the CBC stage writes no memory (R78). -/
theorem exec_mem_of_not_decryptsWith {i : Instr} {s t : State} (h : exec i s = .next t)
    (hno : ∀ key iv, ¬(s.InputsAccepted ∧ s.DecryptsWith key iv i)) : t.mem = s.mem := by
  rcases exec_cases h with ⟨e, he, rfl, -⟩ | ⟨-, ha, k, e, hd, -⟩ | ⟨-, ha, k, r, hd, -⟩ | ⟨-, -, rfl⟩
  · exact raiseCmdError_early_mem he s
  · exact absurd ⟨ha, hd⟩ (hno k.key k.iv)
  · exact absurd ⟨ha, hd⟩ (hno k.key k.iv)
  · rfl

/-- A command in flight that reports an error with an early code has raised one, on the state as it was. -/
theorem exec_reports_early {i : Instr} {s t : State} (hs : s.status.err = false) (h : exec i s = .next t)
    (herr : t.status.err = true) (hlate : t.status.code.late = false) : ∃ e, e.early ∧ t = raiseCmdError e s := by
  rcases exec_cases h with ⟨e, he, rfl, -⟩ | ⟨-, -, k, e, -, rfl, hu⟩ | ⟨-, -, k, r, -, -, rfl⟩ | ⟨-, -, rfl⟩
  · exact ⟨e, he, rfl⟩
  · rcases hu with ⟨rfl, -⟩ | ⟨rfl, -⟩ <;> cases hlate
  · exact absurd (hs.symm.trans herr) (by decide)
  · exact absurd (hs.symm.trans herr) (by decide)

theorem complete_reports_early {s t : State} (hs : s.status.err = false) (h : complete s = .next t)
    (herr : t.status.err = true) (hlate : t.status.code.late = false) : ∃ e, e.early ∧ t = raiseCmdError e s := by
  rcases complete_cases h with ⟨i, -, hx⟩ | ⟨e, -, rfl⟩
  · exact exec_reports_early hs hx herr hlate
  · exact ⟨_, ⟨by simp, rfl⟩, rfl⟩

/-- The late failures (R12). -/
theorem ErrCode.late_iff (c : ErrCode) : c.late = true ↔ c = .paddingValidationFailure ∨ c = .emptyPlaintextAfterUnpad := by
  cases c <;> simp [ErrCode.late]

/-! ### What the outcome depends on (R84) -/

section
variable {s s' : State} (h : s.SameOperands s')
include h

theorem State.SameOperands.srcRegion_eq : s.srcRegion = s'.srcRegion := by
  obtain ⟨haddr, hlen, -⟩ := h
  rw [State.srcRegion, haddr, hlen, State.srcRegion]

theorem State.SameOperands.keyRegion_eq : s.keyRegion = s'.keyRegion := by
  obtain ⟨-, -, haddr, hlen, -⟩ := h
  rw [State.keyRegion, haddr, hlen, State.keyRegion]

theorem State.SameOperands.ivRegion_eq : s.ivRegion = s'.ivRegion := by
  obtain ⟨-, -, -, -, haddr, hlen, -⟩ := h
  rw [State.ivRegion, haddr, hlen, State.ivRegion]

theorem State.SameOperands.dstRegion_eq : s.dstRegion = s'.dstRegion := by
  obtain ⟨-, hlen, -, -, -, -, haddr⟩ := h
  rw [State.dstRegion, haddr, hlen, State.dstRegion]

theorem State.SameOperands.validateText_eq : validateText s = validateText s' := by
  obtain ⟨-, hsrc, -, hkey, -, hiv, -⟩ := h
  rw [validateText, hkey, hiv, hsrc, validateText]

theorem State.SameOperands.overlapCheck_eq : overlapCheck s = overlapCheck s' := by
  rw [overlapCheck, h.srcRegion_eq, h.keyRegion_eq, h.ivRegion_eq, h.dstRegion_eq, overlapCheck]

theorem State.SameOperands.decryptRegions_eq : s.decryptRegions = s'.decryptRegions := by
  rw [State.decryptRegions, h.srcRegion_eq, h.keyRegion_eq, h.ivRegion_eq, h.dstRegion_eq, State.decryptRegions]

theorem State.SameOperands.classifyRegions_eq : s.classifyRegions = s'.classifyRegions := by
  rw [State.classifyRegions, h.srcRegion_eq, State.classifyRegions]

end

/-- Two machines agree on what command `i` reads: the parameters, the operands and the bytes of its input regions. -/
structure State.AgreeFor (i : Instr) (s s' : State) : Prop where
  params : s.params = s'.params
  operands : s.SameOperands s'
  src_bytes : s.SameBytes s' s.srcRegion
  text_bytes : i ≠ .classify → s.SameBytes s' s.keyRegion ∧ s.SameBytes s' s.ivRegion

theorem State.SameBytes.regionBytes_eq {s s' : State} {r : Region} (h : s.SameBytes s' r) :
    s.regionBytes r = s'.regionBytes r :=
  memRead_congr _ _ _ _ fun a h1 h2 => h a ((r.contains_iff a).2 ⟨h1, h2⟩)

section
variable {i : Instr} {s s' : State} (h : s.AgreeFor i s')
include h

theorem State.AgreeFor.memSize_eq : s.memSize = s'.memSize := by
  rw [State.memSize, h.params, State.memSize]

theorem State.AgreeFor.ciphertext_eq : s.ciphertext = s'.ciphertext := by
  have hregion := congrArg s'.regionBytes h.operands.srcRegion_eq
  exact h.src_bytes.regionBytes_eq.trans hregion

theorem State.AgreeFor.keyText_eq (hi : i ≠ .classify) : s.regionBytes s.keyRegion = s'.regionBytes s'.keyRegion := by
  obtain ⟨hkey, -⟩ := h.text_bytes hi
  rw [hkey.regionBytes_eq, h.operands.keyRegion_eq]

theorem State.AgreeFor.ivText_eq (hi : i ≠ .classify) : s.regionBytes s.ivRegion = s'.regionBytes s'.ivRegion := by
  obtain ⟨-, hiv⟩ := h.text_bytes hi
  rw [hiv.regionBytes_eq, h.operands.ivRegion_eq]

theorem State.AgreeFor.decryptChecks_eq : decryptChecks s = decryptChecks s' := by
  rw [decryptChecks, h.operands.validateText_eq, h.memSize_eq, h.operands.decryptRegions_eq, h.operands.overlapCheck_eq,
    decryptChecks]

theorem State.AgreeFor.textKeyIv_eq (hi : i ≠ .classify) : textKeyIv s = textKeyIv s' := by
  simp only [textKeyIv, h.keyText_eq hi, h.ivText_eq hi, h.params]

/-- The raw key and IV are the bytes of their regions once the lengths have been checked. -/
theorem State.AgreeFor.rawKeyIv_eq (hi : i ≠ .classify) : rawKeyIv s = rawKeyIv s' := by
  obtain ⟨-, -, -, hk, -, hv, -⟩ := h.operands
  have hkey := h.keyText_eq hi
  have hiv := h.ivText_eq hi
  simp only [State.regionBytes, State.keyRegion, State.ivRegion, ← hk, ← hv] at hkey hiv
  rw [rawKeyIv, rawKeyIv, ← hk, ← hv]
  cases hc : cbcInit s.keyLen.toNat s.ivLen.toNat with
  | some e => rfl
  | none =>
    obtain ⟨h32, h16⟩ := (cbcInit_eq_none_iff _ _).1 hc
    rw [h32] at hkey
    rw [h16] at hiv
    simp only [hkey, hiv]

theorem State.AgreeFor.earlyError_eq : earlyError i s = earlyError i s' := by
  cases i with
  | classify => rw [earlyError, h.operands.classifyRegions_eq, h.memSize_eq, earlyError]
  | decrypt => rw [earlyError, h.decryptChecks_eq, h.textKeyIv_eq (by decide), earlyError]
  | decryptClassify => rw [earlyError, h.decryptChecks_eq, h.textKeyIv_eq (by decide), earlyError]
  | decryptRaw => rw [earlyError, h.decryptChecks_eq, h.rawKeyIv_eq (by decide), earlyError]

theorem State.AgreeFor.inputsAccepted (ha : s.InputsAccepted) : s'.InputsAccepted := by
  rw [← decryptChecks_eq_none_iff] at ha ⊢
  rw [← h.decryptChecks_eq, ha]

theorem State.AgreeFor.textsDecodeTo (hi : i ≠ .classify) {key iv : List Byte} (hd : s.TextsDecodeTo key iv) :
    s'.TextsDecodeTo key iv := by
  rw [← textKeyIv_eq_ok_iff _ ⟨key, iv⟩] at hd ⊢
  rw [← h.textKeyIv_eq hi, hd]

theorem State.AgreeFor.decryptsWith {key iv : List Byte} (hd : s.DecryptsWith key iv i) : s'.DecryptsWith key iv i := by
  cases i with
  | classify => exact hd
  | decrypt => exact h.textsDecodeTo (by decide) hd
  | decryptClassify => exact h.textsDecodeTo (by decide) hd
  | decryptRaw =>
    rw [← rawKeyIv_eq_ok_iff _ ⟨key, iv⟩] at hd ⊢
    rw [← h.rawKeyIv_eq (by decide), hd]

end

/-! ### What a completion publishes, from what the launch left -/

/-- Legal machines with a command in flight that agree on `OVR` agree on every report and result register. -/
theorem legal_busy_sameResults {s s' : State} (hl : s.Legal) (hl' : s'.Legal) (hb : s.status.busy = true)
    (hb' : s'.status.busy = true) (hovr : s.status.ovr = s'.status.ovr) : s.SameResults s' := by
  obtain ⟨herr, hcode, hfield, hlen, hexp, hact, hcls, hsize⟩ := legal_busy hl hb
  obtain ⟨herr', hcode', hfield', hlen', hexp', hact', hcls', hsize'⟩ := legal_busy hl' hb'
  refine ⟨?_, hlen.trans hlen'.symm, hexp.trans hexp'.symm, hact.trans hact'.symm, hcls.trans hcls'.symm,
    hsize.trans hsize'.symm⟩
  rw [Status.mk.injEq]
  exact ⟨hb.trans hb'.symm, (hl.busy_not_done hb).trans (hl'.busy_not_done hb').symm, herr.trans herr'.symm, hovr,
    hcode.trans hcode'.symm, hfield.trans hfield'.symm⟩

section
variable {s s' : State} (h : s.SameResults s')
include h

theorem raiseCmdError_sameResults (e : CmdError) : (raiseCmdError e s).SameResults (raiseCmdError e s') := by
  obtain ⟨hst, hlen, -, -, hcls, hsize⟩ := h
  exact ⟨by simp [hst], hlen, rfl, rfl, hcls, hsize⟩

theorem finishOk_sameResults : (finishOk s).SameResults (finishOk s') := by
  obtain ⟨hst, hresults⟩ := h
  exact ⟨by simp [hst], hresults⟩

theorem decrypted_sameResults (i : Instr) (k : KeyIv) (r : List Byte) :
    (decrypted i k r s).SameResults (decrypted i k r s') := by
  obtain ⟨hst, -, hexp, hact, hcls, hsize⟩ := h
  exact ⟨hst, rfl, hexp, hact, by simp [decrypted, hcls], by simp [decrypted, hsize]⟩

theorem classified_sameResults (hct : s.ciphertext = s'.ciphertext) (hsrc : s.srcLen = s'.srcLen) :
    (classified s).SameResults (classified s') := by
  obtain ⟨hst, hlen, hexp, hact, -, -⟩ := h
  exact ⟨hst, hlen, hexp, hact, by simp [classified, hct], hsrc⟩

theorem endAfterCbc_sameResults (i : Instr) (k : KeyIv) (u : Unpadded) :
    (endAfterCbc i k s u).SameResults (endAfterCbc i k s' u) := by
  have hstage : (cipherStage k s).SameResults (cipherStage k s') := h
  cases u with
  | padFail => exact raiseCmdError_sameResults hstage _
  | empty => exact raiseCmdError_sameResults hstage _
  | plaintext r => exact finishOk_sameResults (decrypted_sameResults h i k r)

end

/-- CLASSIFY without an early error classifies the source (R123). -/
theorem exec_classify_of_earlyError_eq_none {s : State} (h : earlyError .classify s = none) :
    exec .classify s = .next (finishOk (classified s)) := by
  rw [earlyError] at h
  rw [exec, execClassify, h]
  rfl

/-- Commands that read the same publish the same (R84). -/
theorem exec_sameResults {i : Instr} {s s' t t' : State} (hres : s.SameResults s') (hag : s.AgreeFor i s')
    (ht : exec i s = .next t) (ht' : exec i s' = .next t') : t.SameResults t' := by
  have hearly' := hag.earlyError_eq
  cases hearly : earlyError i s with
  | some e =>
    rw [hearly] at hearly'
    cases (exec_earlyError hearly).symm.trans ht
    cases (exec_earlyError hearly'.symm).symm.trans ht'
    exact raiseCmdError_sameResults hres e
  | none =>
    rw [hearly] at hearly'
    by_cases hi : i = .classify
    · subst hi
      obtain ⟨-, hsrc, -⟩ := hag.operands
      cases (exec_classify_of_earlyError_eq_none hearly).symm.trans ht
      cases (exec_classify_of_earlyError_eq_none hearly'.symm).symm.trans ht'
      exact finishOk_sameResults (classified_sameResults hres hag.ciphertext_eq hsrc)
    · obtain ⟨ha, key, iv, hd⟩ := decryptsWith_of_earlyError_eq_none hi hearly
      have hx' := exec_eq_endAfterCbc (hag.inputsAccepted ha) (hag.decryptsWith hd)
      rw [← hag.ciphertext_eq] at hx'
      cases (exec_eq_endAfterCbc ha hd).symm.trans ht
      cases hx'.symm.trans ht'
      exact endAfterCbc_sameResults hres i _ _

/-- A decrypt command that reports no error has written the decrypted buffer to the destination (R73). -/
theorem exec_mem_of_success {i : Instr} (hi : i ≠ .classify) {s t : State} (h : exec i s = .next t)
    (ht : t.status.err = false) :
    s.InputsAccepted ∧ ∃ key iv, s.DecryptsWith key iv i ∧
      t.mem = memWrite s.mem s.dstAddr.toNat (cbcDecrypt s.ciphertext key iv) := by
  rcases exec_cases h with ⟨e, -, rfl, -⟩ | ⟨-, -, k, e, -, rfl, -⟩ | ⟨-, ha, k, r, hd, -, rfl⟩ | ⟨hc, -⟩
  · simp at ht
  · simp at ht
  · exact ⟨ha, k.key, k.iv, hd, rfl⟩
  · exact absurd hc hi

/-- Two successes on the same operands and input bytes leave the same destination bytes (R84). -/
theorem exec_dst_sameBytes {i : Instr} (hi : i ≠ .classify) {s s' t t' : State} (hag : s.AgreeFor i s')
    (h : exec i s = .next t) (h' : exec i s' = .next t') (ht : t.status.err = false) (ht' : t'.status.err = false) :
    t.SameBytes t' s.dstRegion := by
  obtain ⟨ha, key, iv, hd, hmem⟩ := exec_mem_of_success hi h ht
  obtain ⟨-, key', iv', hd', hmem'⟩ := exec_mem_of_success hi h' ht'
  obtain ⟨rfl, rfl⟩ := decryptsWith_unique (hag.decryptsWith hd) hd'
  obtain ⟨-, -, -, -, -, -, hdst⟩ := hag.operands
  intro a hin
  have hwritten : s.dstAddr.toNat ≤ a ∧ a < s.dstAddr.toNat + (cbcDecrypt s.ciphertext key iv).length := by
    rw [cbcStage_length ha hd]
    exact (Region.contains_iff _ a).1 hin
  rw [hmem, hmem', ← hdst, ← hag.ciphertext_eq, readByte_memWrite, readByte_memWrite, if_pos hwritten, if_pos hwritten]

/-! ### The HOST while a command is in flight (R68) -/

/-- While busy, `CMD` and the operand registers only note the write. -/
theorem writeReg_busy {s : State} (hb : s.status.busy = true) {r : Reg} (hr : r = .cmd ∨ r.isOperand = true) (v : Word) :
    s.writeReg r v = s.overrun := by
  rcases hr with rfl | hr
  · simp [State.writeReg, State.unlessBusy, hb]
  · cases r <;> simp [Reg.isOperand] at hr <;> simp [State.writeReg, State.unlessBusy, hb]

/-- The registers that a command in flight reads and those that it will publish in, and `PENDING`, are the same (R70). -/
def State.SameInFlight (s t : State) : Prop :=
  s.SameOperands t ∧ t.pending = s.pending ∧ t.resLen = s.resLen ∧ t.errExp = s.errExp ∧ t.errAct = s.errAct ∧
    t.cls = s.cls ∧ t.clsSize = s.clsSize

theorem State.SameInFlight.refl (s : State) : s.SameInFlight s :=
  ⟨⟨rfl, rfl, rfl, rfl, rfl, rfl, rfl⟩, rfl, rfl, rfl, rfl, rfl, rfl⟩

/-- A write of `CTRL` or `STATUS` and a write that is turned away leave these registers alone. -/
theorem writeReg_sameInFlight {s : State} (hb : s.status.busy = true) (r : Reg) (v : Word) :
    s.SameInFlight (s.writeReg r v) := by
  rcases writeReg_cases s r v with
    hw | ⟨-, hw⟩ | ⟨-, hw⟩ | ⟨-, hidle, -⟩ | ⟨-, -, hw⟩ | ⟨hidle, -⟩
  · rw [hw]
    exact .refl s
  · rw [hw]
    exact .refl s
  · rw [hw]
    exact .refl s
  · simp [hb] at hidle
  · rw [hw]
    exact .refl s
  · simp [hb] at hidle

theorem hostAccess_sameInFlight {op : HostOp} {s t : State} (hs : s.status.busy = true) (ht : t.status.busy = true)
    (h : hostAccess op s = .next t) : s.SameInFlight t := by
  rcases hostAccess_cases h with
    ⟨r, v, -, rfl⟩ | ⟨x, rfl⟩ | ⟨x, -, -, rfl⟩ | ⟨addr, b, -, -, -, rfl⟩ | ⟨-, rfl⟩ | rfl
  · exact writeReg_sameInFlight hs r v
  · exact .refl s
  · exact .refl s
  · exact .refl s
  · simp at ht
  · exact .refl _

/-! ### The obligations -/

/-- Settles O22: the state after a success, and the plaintext is the buffer less its padding. -/
theorem decryptPublishesThePlaintext : Obligations.DecryptPublishesThePlaintext := by
  intro s key iv r hl hb ha htexts hu
  have hd : s.DecryptsWith key iv .decrypt := htexts
  have hlen := cbcStage_length ha hd
  have hunpad := pkcs7Unpad_length hu (by rw [hlen]; exact ha.texts.block_le)
  rw [hlen] at hunpad
  refine ⟨?_, hlen, hunpad⟩
  rw [exec_eq_endAfterCbc ha hd, hu, endAfterCbc, finishOk_decrypted hl hb]
  rfl

/-- Settles O23: as DECRYPT, with the classification of the plaintext. -/
theorem decryptClassifyPublishesPlaintextAndTag : Obligations.DecryptClassifyPublishesPlaintextAndTag := by
  intro s key iv r hl hb ha htexts hu
  have hd : s.DecryptsWith key iv .decryptClassify := htexts
  rw [exec_eq_endAfterCbc ha hd, hu, endAfterCbc, finishOk_decrypted hl hb, if_pos rfl, if_pos rfl, Cls.ofTag_eq]

/-- Settles O24: as DECRYPT, with the key and the IV as they stand in memory. -/
theorem decryptRawPublishesThePlaintext : Obligations.DecryptRawPublishesThePlaintext := by
  intro s r hl hb ha hk hv hu
  rw [exec_eq_endAfterCbc ha (decryptRaw_decryptsWith hk hv), hu, endAfterCbc, finishOk_decrypted hl hb]
  rfl

/-- Settles O26: the first row of the Input Validator that fails is reported; once it passes, the other checks and the
stages after them report other codes. -/
theorem inputValidatorOrder : Obligations.InputValidatorOrder := by
  intro s i hi
  refine ⟨fun hk => ?_, fun hk hv => ?_, fun hk hv hs => ?_, fun hk hv hs h16 => ?_, fun ht hcode => ?_⟩
  · exact exec_decryptChecks hi (decryptChecks_of_validateText (if_pos hk))
  · exact exec_decryptChecks hi (decryptChecks_of_validateText ((if_neg hk).trans (if_pos hv)))
  · exact exec_decryptChecks hi (decryptChecks_of_validateText ((if_neg hk).trans ((if_neg hv).trans (if_pos hs))))
  · exact exec_decryptChecks hi (decryptChecks_of_validateText
      ((if_neg hk).trans ((if_neg hv).trans ((if_neg hs).trans (if_pos h16)))))
  · cases hearly : earlyError i s with
    | some e => exact ⟨_, exec_earlyError hearly, earlyError_code_of_textsAccepted hi ht hearly⟩
    | none =>
      obtain ⟨ha, key, iv, hd⟩ := decryptsWith_of_earlyError_eq_none hi hearly
      refine ⟨_, exec_eq_endAfterCbc ha hd, ?_⟩
      cases pkcs7Unpad (cbcDecrypt s.ciphertext key iv) with
      | padFail => simp [endAfterCbc, paddingError]
      | empty => simp [endAfterCbc, emptyError]
      | plaintext r => simp [endAfterCbc, decrypted, hcode]

/-- Settles O31: the error is raised on the state that the CBC stage left, which differs from the launched one in the
destination and the working copies. -/
theorem lateFailuresReportNoCause : Obligations.LateFailuresReportNoCause := by
  intro s i key iv hl hb ha hd
  have hx := exec_eq_endAfterCbc ha hd
  refine ⟨fun hu => ?_, fun hu => ?_⟩ <;> rw [hu, endAfterCbc] at hx
  · obtain ⟨hst, hlen, hcls, hsize⟩ := lateFailure_report hl hb (e := paddingError) (by decide) ⟨key, iv⟩
    exact ⟨_, hx, hst, rfl, rfl, hlen, hcls, hsize, fun a => readByte_lateFailure_outside ha hd a⟩
  · obtain ⟨hst, hlen, hcls, hsize⟩ := lateFailure_report hl hb (e := emptyError) (by decide) ⟨key, iv⟩
    exact ⟨_, hx, hst, rfl, rfl, hlen, hcls, hsize, fun a => readByte_lateFailure_outside ha hd a⟩

/-- Settles O32: such an error was raised on the launched state, whose results are 0. -/
theorem earlyFailuresWriteNoMemory : Obligations.EarlyFailuresWriteNoMemory := by
  intro s t hl hb h herr hpad hempty
  have hlate : t.status.code.late = false := by
    rw [← Bool.not_eq_true, ErrCode.late_iff]
    exact not_or.2 ⟨hpad, hempty⟩
  obtain ⟨hs, -, -, hlen, -, -, hcls, hsize⟩ := legal_busy hl hb
  obtain ⟨e, he, rfl⟩ := complete_reports_early hs h herr hlate
  exact ⟨raiseCmdError_early_mem he s, hlen, hcls, hsize⟩

/-- Settles O34: the two commands end the same pipeline, with the same error or with the same plaintext. -/
theorem decryptClassifyFailsAsDecrypt : Obligations.DecryptClassifyFailsAsDecrypt := by
  intro s t u ht hu
  rw [exec, execDecrypt] at ht
  rw [exec, execDecryptClassify] at hu
  rcases decryptPipeline_cases (textKeyIv s) s (textKeyIv_early s) with
    ⟨e, -, hp, -⟩ | ⟨k, e, -, -, hp, -⟩ | ⟨k, r, -, -, -, hp⟩ <;> rw [hp] at ht hu <;> cases ht <;> cases hu
  · exact ⟨rfl, rfl, rfl, rfl, rfl, rfl, rfl, rfl, fun hl hb _ => legal_busy_cls (s := s) hl hb,
      fun _ _ hok => by cases hok⟩
  · exact ⟨rfl, rfl, rfl, rfl, rfl, rfl, rfl, rfl, fun hl hb _ => legal_busy_cls (s := s) hl hb,
      fun _ _ hok => by cases hok⟩
  · refine ⟨rfl, rfl, rfl, rfl, rfl, rfl, rfl, rfl, fun hl hb herr => ?_, fun _ _ _ => rfl⟩
    exact absurd ((hl.busy_not_err hb).symm.trans herr) (by decide)

/-- Settles O35: each way that a decrypt command can end, and the destination after a success as the plaintext followed by
its padding. -/
theorem frameOfTheDecryptCommands : Obligations.FrameOfTheDecryptCommands := by
  intro s t i hi h
  refine ⟨exec_sameSetup h, fun hc => exec_cls hi hc h, exec_results_of_no_plaintext hi h,
    fun key iv r ha hd hu => ?_, fun a hout => ?_, exec_mem_of_not_decryptsWith h⟩
  · rw [exec_eq_endAfterCbc ha hd, hu, endAfterCbc] at h
    cases h
    obtain ⟨n, h1, h16, hsum, hbuf⟩ := cbcDecrypt_eq_append ha hd hu
    have hres : (finishOk (decrypted i ⟨key, iv⟩ r s)).resLen.toNat = r.length :=
      (BitVec.toNat_ofNat _ _).trans (Nat.mod_eq_of_lt (by have := s.srcLen.isLt; omega))
    have hmem : (finishOk (decrypted i ⟨key, iv⟩ r s)).mem =
        memWrite s.mem s.dstAddr.toNat (cbcDecrypt s.ciphertext key iv) := rfl
    have hread := memRead_memWrite s.mem s.dstAddr.toNat (cbcDecrypt s.ciphertext key iv)
    rw [hres, hmem]
    refine ⟨cbcStage_length ha hd ▸ hread, ?_, by omega, fun a ha1 ha2 => ?_, rfl, rfl, rfl, rfl, rfl⟩
    · rw [hbuf] at hread ⊢
      exact memRead_append_left hread
    · rw [hbuf, readByte_memWrite_padding s.mem ha1 (by omega), BitVec.toNat_ofNat, Nat.mod_eq_of_lt (by omega)]
      omega
  · refine (exec_changedOnly h).frame a fun ⟨_, hin, _⟩ => ?_
    simp [hout] at hin

/-- Settles O37: the early error, the key, the IV and the decrypted buffer are functions of what the command reads. -/
theorem outcomeDependsOnlyOnOperandsAndRegions : Obligations.OutcomeDependsOnlyOnOperandsAndRegions := by
  intro i s s' t t' hl hl' hb hb' hovr hparams hops hsrc htexts ht ht'
  have hag : s.AgreeFor i s' := ⟨hparams, hops, hsrc, htexts⟩
  have hs := hl.busy_not_err hb
  have hs' := hl'.busy_not_err hb'
  have hres := exec_sameResults (legal_busy_sameResults hl hl' hb hb' hovr) hag ht ht'
  have ⟨hst, _⟩ := hres
  refine ⟨hres, fun hi herr => ?_, fun herr hlate => ?_⟩
  · exact exec_dst_sameBytes hi hag ht ht' herr (by rwa [← hst])
  · obtain ⟨e, he, rfl⟩ := exec_reports_early hs ht herr hlate
    obtain ⟨e', he', rfl⟩ := exec_reports_early hs' ht' (by rwa [← hst]) (by rwa [← hst])
    exact ⟨raiseCmdError_early_mem he s, raiseCmdError_early_mem he' s'⟩

/-- Settles O57: a step after which the command is still in flight is no completion and no reset. -/
theorem operandsAreFrozenInFlight : Obligations.OperandsAreFrozenInFlight := by
  intro s t hs ht h
  rcases step_cases h with ⟨i, -, -, hx⟩ | ⟨e, -, -, rfl⟩ | ⟨op, ops, -, hx⟩ | rfl
  · obtain ⟨hidle, -⟩ := exec_completes hx
    simp [hidle] at ht
  · simp at ht
  · exact hostAccess_sameInFlight (s := { s with schedule := s.schedule.tail, script := ops }) hs ht hx
  · exact State.SameInFlight.refl s

/-- Settles O5: the launch is the write of `CMD`. -/
theorem launchLatchesTheWord : Obligations.LaunchLatchesTheWord := fun _ c hb => hostAccess_cmdWrite_idle hb c

/-- Settles O6: the write of a busy register is turned away, and the writes of `CTRL` and `STATUS` do not look at `BUSY`. -/
theorem writesWhileBusyOnlySetOverrun : Obligations.WritesWhileBusyOnlySetOverrun := by
  intro s r v
  refine ⟨fun hb hr => ?_, hostAccess_regWrite s .ctrl v, fun _ => hostAccess_regWrite s .status v⟩
  have hr : r = .cmd ∨ r.isOperand = true := by
    revert hr
    cases r <;> decide
  rw [hostAccess_regWrite, writeReg_busy hb hr]
  rfl

end Sys2Proof.Machine
end

section
/-! PROOF. The statements about the base64 decoder (41_base64.md): its alphabet, which texts it accepts, what they decode
to, and what the text commands report when it fails. -/
namespace Sys2Proof.Machine

/-! ### Lists read with `getD` -/

theorem getD_take {α : Type} {l : List α} {n i : Nat} {d : α} (hi : i < n) : (l.take n).getD i d = l.getD i d := by
  rw [List.getD_eq_getElem?_getD, List.getElem?_take_of_lt hi, List.getD_eq_getElem?_getD]

/-- A list whose last `p` items are `x`. -/
theorem take_append_replicate {α : Type} {l : List α} {p : Nat} {x d : α} (hp : p ≤ l.length)
    (h : ∀ i, l.length - p ≤ i → i < l.length → l.getD i d = x) :
    l.take (l.length - p) ++ List.replicate p x = l := by
  have hdrop : l.drop (l.length - p) = List.replicate p x := by
    refine List.eq_replicate_iff.2 ⟨by rw [List.length_drop]; omega, fun c hc => ?_⟩
    obtain ⟨i, hi, rfl⟩ := List.mem_iff_getElem.1 hc
    rw [List.length_drop] at hi
    rw [List.getElem_drop, ← List.getD_eq_getElem _ d]
    exact h _ (by omega) (by omega)
  rw [← hdrop, List.take_append_drop]

/-! ### The alphabet (R85) -/

/-- The table of R85, as numbers. -/
theorem b64Value_toNat_eq_some_iff (c : Byte) (n : Nat) : (b64Value c).map BitVec.toNat = some n ↔
    (0x41 ≤ c.toNat ∧ c.toNat ≤ 0x5A ∧ n = c.toNat - 0x41) ∨
    (0x61 ≤ c.toNat ∧ c.toNat ≤ 0x7A ∧ n = c.toNat - 0x61 + 26) ∨
    (0x30 ≤ c.toNat ∧ c.toNat ≤ 0x39 ∧ n = c.toNat - 0x30 + 52) ∨
    (c.toNat = 0x2B ∧ n = 62) ∨ (c.toNat = 0x2F ∧ n = 63) := by
  simp only [b64Value]
  split_ifs <;> simp only [Option.map_some, Option.map_none, Option.some.injEq, reduceCtorEq,
    BitVec.ofNat_eq_ofNat, BitVec.toNat_ofNat, false_iff] <;> omega

/-- Every value has one character. -/
theorem b64Value_inj {c d : Byte} {v : BitVec 6} (hc : b64Value c = some v) (hd : b64Value d = some v) : c = d := by
  have hc' := (b64Value_toNat_eq_some_iff c v.toNat).1 (by rw [hc]; rfl)
  have hd' := (b64Value_toNat_eq_some_iff d v.toNat).1 (by rw [hd]; rfl)
  apply BitVec.eq_of_toNat_eq
  omega

theorem b64Value_padChar : b64Value padChar = none := rfl

/-- Every sequence of values has one text without padding. -/
theorem b64Values_inj {t u : List Byte} {vs : List (BitVec 6)} (ht : b64Values t = some vs) (hu : b64Values u = some vs) :
    t = u := by
  have hlt := b64Values_length ht
  have hlu := b64Values_length hu
  refine List.ext_getElem (by omega) fun i hi hi' => ?_
  have h1 := b64Values_getD ht i hi
  have h2 := b64Values_getD hu i hi'
  rw [List.getD_eq_getElem _ _ hi] at h1
  rw [List.getD_eq_getElem _ _ hi'] at h2
  exact b64Value_inj h1 h2

/-! ### The padding (R86) -/

/-- The characters that are counted as padding are pad characters. -/
theorem getD_of_padCount_le {text : List Byte} {i : Nat} (h : text.length - b64PadCount text ≤ i) (hi : i < text.length) :
    text.getD i 0 = padChar := by
  unfold b64PadCount at h
  split at h
  next hlast =>
    split at h
    next hlast2 =>
      obtain rfl | rfl | hlt : i = text.length - 1 ∨ i = text.length - 2 ∨ i < text.length - 2 := by omega
      · exact hlast
      · exact hlast2
      · omega
    · obtain rfl : i = text.length - 1 := by omega
      exact hlast
  · omega

theorem b64PadCount_eq_zero {text : List Byte} (h : text.getD (text.length - 1) 0 ≠ padChar) : b64PadCount text = 0 :=
  if_neg h

/-- The padding of a text is what follows its last character of the alphabet. -/
theorem b64PadCount_eq {text : List Byte} {p : Nat} (hp : p ≤ 2) (h3 : 3 ≤ text.length)
    (hpad : ∀ i, text.length - p ≤ i → i < text.length → text.getD i 0 = padChar)
    (halph : ∀ i, i < text.length - p → b64Value (text.getD i 0) ≠ none) : b64PadCount text = p := by
  have hnot : ∀ i, i < text.length - p → text.getD i 0 ≠ padChar := fun i hi h => halph i hi (h ▸ b64Value_padChar)
  unfold b64PadCount
  obtain rfl | rfl | rfl : p = 0 ∨ p = 1 ∨ p = 2 := by omega
  · rw [if_neg (hnot _ (by omega))]
  · rw [if_pos (hpad _ (by omega) (by omega)), if_neg (hnot _ (by omega))]
  · rw [if_pos (hpad _ (by omega) (by omega)), if_pos (hpad _ (by omega) (by omega))]

/-- A text of whole quanta has room for its padding. -/
theorem b64PadCount_le_length {text : List Byte} (h4 : text.length % 4 = 0) : b64PadCount text ≤ text.length := by
  have h2 := b64PadCount_le text
  cases text with
  | nil => exact Nat.le_of_eq (b64PadCount_eq_zero (by decide))
  | cons c cs => rw [List.length_cons] at *; omega

/-- A text is its data characters and its padding. -/
theorem take_append_padding {text : List Byte} (h4 : text.length % 4 = 0) :
    text.take (text.length - b64PadCount text) ++ List.replicate (b64PadCount text) padChar = text :=
  take_append_replicate (b64PadCount_le_length h4) fun _ => getD_of_padCount_le

/-! ### The decoder (R92) -/

/-- The conditions of R88. -/
theorem b64TailZero_iff (p : Nat) (vs : List (BitVec 6)) : b64TailZero p vs = true ↔
    (p = 1 → (vs.getD (vs.length - 1) 0).toNat % 4 = 0) ∧ (p = 2 → (vs.getD (vs.length - 1) 0).toNat % 16 = 0) := by
  unfold b64TailZero
  split_ifs with h1 h2
  · simp [h1]
  · simp [h2]
  · simp [h1, h2]

/-- When a text decodes, and to what. -/
theorem b64decode_eq_some_iff (strict : Bool) (text out : List Byte) : b64decode strict text = some out ↔
    text.length % 4 = 0 ∧ ∃ vs, b64Values (text.take (text.length - b64PadCount text)) = some vs ∧
      (strict = true → b64TailZero (b64PadCount text) vs = true) ∧
      out = (b64Quanta (vs ++ List.replicate (b64PadCount text) 0)).take (3 * text.length / 4 - b64PadCount text) := by
  unfold b64decode
  split
  next h4 => exact iff_of_false (by simp) fun h => h4 h.1
  next h4 =>
    simp only [not_not.1 h4, true_and]
    cases b64Values (text.take (text.length - b64PadCount text)) with
    | none => simp
    | some vs =>
      simp only [Option.some.injEq, exists_eq_left']
      split
      next ht =>
        simp only [Bool.and_eq_true, Bool.not_eq_true'] at ht
        exact iff_of_false (by simp) fun h => by simp [h.1 ht.1] at ht
      next ht =>
        have ht : strict = true → b64TailZero (b64PadCount text) vs = true := by simpa using ht
        simp only [Option.some.injEq]
        exact ⟨fun h => ⟨ht, h.symm⟩, fun h => h.2.symm⟩

theorem b64decode_of_ragged {text : List Byte} (h4 : text.length % 4 ≠ 0) (strict : Bool) : b64decode strict text = none :=
  if_pos h4

theorem b64Values_take_length {text : List Byte} {n : Nat} {vs : List (BitVec 6)}
    (h : b64Values (text.take n) = some vs) (hn : n ≤ text.length) : vs.length = n := by
  rw [b64Values_length h, List.length_take, Nat.min_eq_left hn]

/-- The value at a place before the padding. -/
theorem b64Values_take_getD {text : List Byte} {n i : Nat} {vs : List (BitVec 6)} (h : b64Values (text.take n) = some vs)
    (hi : i < n) (hl : i < text.length) : b64Value (text.getD i 0) = some (vs.getD i 0) := by
  rw [← b64Values_getD h i (by rw [List.length_take]; omega), getD_take hi]

/-- A character outside the alphabet before the padding is not skipped (R89). -/
theorem b64decode_of_not_alphabet {text : List Byte} {i : Nat} (hi : i < text.length - b64PadCount text)
    (h : b64Value (text.getD i 0) = none) (strict : Bool) : b64decode strict text = none := by
  rw [Option.eq_none_iff_forall_ne_some]
  intro out ho
  obtain ⟨-, vs, hv, -⟩ := (b64decode_eq_some_iff _ _ _).1 ho
  rw [b64Values_take_getD hv hi (by omega)] at h
  cases h

section
variable {text : List Byte} {vs : List (BitVec 6)}
  (hv : b64Values (text.take (text.length - b64PadCount text)) = some vs)
include hv

/-- The values of a text: its padding, which has none, counts as 0 (R90). -/
theorem paddedValues_getD (i : Nat) :
    (vs ++ List.replicate (b64PadCount text) 0).getD i 0 = (b64Value (text.getD i 0)).getD 0 := by
  have hlen := b64Values_take_length hv (Nat.sub_le _ _)
  by_cases hi : i < text.length - b64PadCount text
  · rw [List.getD_append _ _ _ _ (by omega), b64Values_take_getD hv hi (by omega), Option.getD_some]
  · rw [List.getD_append_right _ _ _ _ (by omega), List.getD_eq_getElem?_getD,
      List.getElem?_getD_replicate_default_eq]
    by_cases hl : i < text.length
    · rw [getD_of_padCount_le (by omega) hl, b64Value_padChar, Option.getD_none]
    · rw [List.getD_eq_default _ _ (by omega)]
      rfl

variable (h4 : text.length % 4 = 0)
include h4

theorem paddedValues_length : (vs ++ List.replicate (b64PadCount text) (0 : BitVec 6)).length = text.length := by
  have hle := b64PadCount_le_length h4
  rw [List.length_append, List.length_replicate, b64Values_take_length hv (Nat.sub_le _ _)]
  omega

theorem paddedQuanta_length :
    (b64Quanta (vs ++ List.replicate (b64PadCount text) 0)).length = 3 * (text.length / 4) :=
  b64Quanta_length _ _ (by rw [paddedValues_length hv h4]; omega)

end

theorem length_mod_of_b64decode {strict : Bool} {text out : List Byte} (h : b64decode strict text = some out) :
    text.length % 4 = 0 := by
  obtain ⟨h4, -⟩ := (b64decode_eq_some_iff _ _ _).1 h
  exact h4

/-- The output length of R91. -/
theorem b64decode_length {strict : Bool} {text out : List Byte} (h : b64decode strict text = some out) :
    out.length = 3 * text.length / 4 - b64PadCount text := by
  obtain ⟨h4, vs, hv, -, rfl⟩ := (b64decode_eq_some_iff _ _ _).1 h
  rw [List.length_take, paddedQuanta_length hv h4]
  omega

/-! ### The unused bits of the last quantum (R88) -/

/-- The conditions of R88, read off the text. -/
theorem b64TailZero_iff_text {text : List Byte} (h3 : 3 ≤ text.length) {p : Nat} {vs : List (BitVec 6)}
    (h : b64Values (text.take (text.length - p)) = some vs) : b64TailZero p vs = true ↔
      (p = 1 → ∀ v, b64Value (text.getD (text.length - 2) 0) = some v → v.toNat % 4 = 0) ∧
      (p = 2 → ∀ v, b64Value (text.getD (text.length - 3) 0) = some v → v.toNat % 16 = 0) := by
  have hlen := b64Values_take_length h (Nat.sub_le _ _)
  rw [b64TailZero_iff]
  refine and_congr (imp_congr_right fun hp => ?_) (imp_congr_right fun hp => ?_) <;> subst hp
  · rw [b64Values_take_getD h (by omega) (by omega), show vs.length - 1 = text.length - 2 by omega]
    simp
  · rw [b64Values_take_getD h (by omega) (by omega), show vs.length - 1 = text.length - 3 by omega]
    simp

/-- With zero unused bits the bytes at the places of the padding are zero. -/
theorem b64Quanta_getD_padding {vs : List (BitVec 6)} {p n : Nat} (hp : p ≤ 2) (hlen : vs.length + p = 4 * n)
    (ht : b64TailZero p vs = true) {i : Nat} (hlo : 3 * n - p ≤ i) (hhi : i < 3 * n) :
    (b64Quanta (vs ++ List.replicate p 0)).getD i 0 = 0 := by
  obtain ⟨h1, h2⟩ := (b64TailZero_iff p vs).1 ht
  obtain ⟨k, rfl⟩ : ∃ k, n = k + 1 := ⟨n - 1, by omega⟩
  obtain ⟨j, rfl⟩ : ∃ j, i = 3 * k + j := ⟨i - 3 * k, by omega⟩
  have hpad (m : Nat) (hm : vs.length ≤ m) : ((vs ++ List.replicate p 0).getD m 0).toNat = 0 := by
    rw [List.getD_append_right _ _ _ _ hm, List.getD_eq_getElem?_getD, List.getElem?_getD_replicate_default_eq]
    rfl
  have hlast (m : Nat) (hm : m + 1 = vs.length) :
      (vs ++ List.replicate p 0).getD m 0 = vs.getD (vs.length - 1) 0 := by
    rw [List.getD_append _ _ _ _ (by omega), show m = vs.length - 1 by omega]
  refine BitVec.eq_of_toNat_eq (Eq.trans ?_ BitVec.toNat_zero.symm)
  rw [b64Quanta_getD k _ j (by omega) (by rw [List.length_append, List.length_replicate]; omega),
    hpad (4 * k + 3) (by omega)]
  obtain rfl | rfl : p = 1 ∨ p = 2 := by omega
  · have := h1 rfl
    obtain rfl : j = 2 := by omega
    rw [hlast (4 * k + 2) (by omega)]
    omega
  · have := h2 rfl
    obtain rfl | rfl : j = 1 ∨ j = 2 := by omega
    all_goals
      rw [hpad (4 * k + 2) (by omega), hlast (4 * k + 1) (by omega)]
      omega

/-- With the strict tail nothing but zero bytes is dropped. -/
theorem paddedQuanta_of_strict {text out : List Byte} (h : b64decode true text = some out) :
    ∃ vs, b64Values (text.take (text.length - b64PadCount text)) = some vs ∧
      b64Quanta (vs ++ List.replicate (b64PadCount text) 0) = out ++ List.replicate (b64PadCount text) 0 := by
  obtain ⟨h4, vs, hv, ht, rfl⟩ := (b64decode_eq_some_iff _ _ _).1 h
  have hvs := paddedValues_length hv h4
  have hlen := paddedQuanta_length hv h4
  have hle := b64PadCount_le text
  have hle' := b64PadCount_le_length h4
  rw [List.length_append, List.length_replicate] at hvs
  refine ⟨vs, hv, ?_⟩
  rw [show 3 * text.length / 4 = (b64Quanta (vs ++ List.replicate (b64PadCount text) 0)).length by omega]
  refine (take_append_replicate (d := 0) (by omega) fun i hlo hhi => ?_).symm
  rw [hlen] at hlo hhi
  exact b64Quanta_getD_padding hle (by omega) (ht rfl) hlo hhi

/-! ### Quanta are determined by their bytes -/

theorem b64Quantum_inj {v0 v1 v2 v3 w0 w1 w2 w3 : BitVec 6} (h : b64Quantum v0 v1 v2 v3 = b64Quantum w0 w1 w2 w3) :
    v0 = w0 ∧ v1 = w1 ∧ v2 = w2 ∧ v3 = w3 := by
  have hbyte (j : Nat) (hj : j < 3) := (b64Quantum_getD v0 v1 v2 v3 j hj).symm.trans
    ((congrArg (fun bs => (bs.getD j 0).toNat) h).trans (b64Quantum_getD w0 w1 w2 w3 j hj))
  have h0 := hbyte 0 (by omega)
  have h1 := hbyte 1 (by omega)
  have h2 := hbyte 2 (by omega)
  have := v0.isLt; have := v1.isLt; have := v2.isLt; have := v3.isLt
  have := w0.isLt; have := w1.isLt; have := w2.isLt; have := w3.isLt
  refine ⟨?_, ?_, ?_, ?_⟩ <;> apply BitVec.eq_of_toNat_eq <;> omega

theorem b64Quanta_inj (n : Nat) {vs ws : List (BitVec 6)} (hv : vs.length = 4 * n) (hw : ws.length = 4 * n)
    (h : b64Quanta vs = b64Quanta ws) : vs = ws := by
  induction n generalizing vs ws with
  | zero => rw [List.eq_nil_of_length_eq_zero hv, List.eq_nil_of_length_eq_zero hw]
  | succ n ih =>
    match vs, ws, hv, hw, h with
    | v0 :: v1 :: v2 :: v3 :: vs, w0 :: w1 :: w2 :: w3 :: ws, hv, hw, h =>
      simp only [List.length_cons] at hv hw
      obtain ⟨hq, hqs⟩ := List.append_inj h rfl
      obtain ⟨rfl, rfl, rfl, rfl⟩ := b64Quantum_inj hq
      rw [ih (by omega) (by omega) hqs]

/-! ### The text commands (R93) -/

/-- With rows 1-6 of R71 passed, a text command reports why it has no key and IV. -/
theorem exec_textKeyIv_error {s : State} {i : Instr} (hi : i = .decrypt ∨ i = .decryptClassify) (ha : s.InputsAccepted)
    {e : CmdError} (h : textKeyIv s = .error e) : exec i s = .next (s.failedWith e.code e.field e.exp e.act) := by
  have hearly : (decryptChecks s).or (keyIvError (textKeyIv s)) = some e := by
    rw [(decryptChecks_eq_none_iff s).2 ha, h]
    rfl
  rw [← raiseCmdError_early e s (textKeyIv_early s e h)]
  rcases hi with rfl | rfl <;> exact exec_earlyError hearly

/-! ### The obligations -/

/-- Settles O29: each failure as the answer of `textKeyIv`, given the steps before it. -/
theorem textFailuresInOrder : Obligations.TextFailuresInOrder := by
  intro s i hi ha
  refine ⟨fun hk => ?_, fun key hk => ⟨fun hv => ?_, fun iv hv => ⟨fun hlen => ?_, fun hlen hlen' => ?_⟩⟩⟩
  · refine exec_textKeyIv_error hi ha (e := ⟨.base64DecodeFailure, .key, 0, 0⟩) ?_
    simp [textKeyIv, State.regionBytes, State.keyRegion, hk]
  · refine exec_textKeyIv_error hi ha (e := ⟨.base64DecodeFailure, .iv, 0, 0⟩) ?_
    simp [textKeyIv, State.regionBytes, State.keyRegion, State.ivRegion, hk, hv]
  · refine exec_textKeyIv_error hi ha (e := ⟨.keyLengthMismatch, .key, 32, BitVec.ofNat 32 key.length⟩) ?_
    simp [textKeyIv, State.regionBytes, State.keyRegion, State.ivRegion, hk, hv, hlen]
  · refine exec_textKeyIv_error hi ha (e := ⟨.ivLengthMismatch, .iv, 16, BitVec.ofNat 32 iv.length⟩) ?_
    simp [textKeyIv, State.regionBytes, State.keyRegion, State.ivRegion, hk, hv, hlen, hlen']

/-- Settles O38: the table of R85, with the last two characters as bytes. -/
theorem base64Alphabet : Obligations.Base64Alphabet := by
  intro c v
  rw [b64Value_toNat_eq_some_iff]
  simp only [← BitVec.toNat_inj, BitVec.ofNat_eq_ofNat, BitVec.toNat_ofNat]

/-- Settles O39: the values of an acceptable text are found and pass the strict tail, and the bytes are those of its
quanta. -/
theorem base64OutputLength : Obligations.Base64OutputLength := by
  refine ⟨fun strict text out h => ?_, fun strict text p v hv hne h4 hp hpad halph h1 h2 => ?_⟩
  · exact ⟨length_mod_of_b64decode h, b64decode_length h, b64PadCount_le text⟩
  · have hpos := List.length_pos_iff.2 hne
    obtain rfl := b64PadCount_eq hp (by omega) hpad halph
    obtain ⟨vs, hvs⟩ := b64Values_of_alphabet (text.take (text.length - b64PadCount text)) fun i hi => by
      rw [List.length_take] at hi
      rw [getD_take (by omega)]
      exact halph i (by omega)
    have hval (i : Nat) : v i = ((vs ++ List.replicate (b64PadCount text) 0).getD i 0).toNat := by
      rw [hv, paddedValues_getD hvs]
      cases b64Value (text.getD i 0) <;> rfl
    have htail (hs : strict = true) : b64TailZero (b64PadCount text) vs = true := by
      refine (b64TailZero_iff_text (by omega) hvs).2 ⟨fun hp1 w hw => ?_, fun hp2 w hw => ?_⟩
      · have := h1 hs hp1
        rwa [hv, hw] at this
      · have := h2 hs hp2
        rwa [hv, hw] at this
    have hdec := (b64decode_eq_some_iff strict text _).2 ⟨h4, vs, hvs, htail, rfl⟩
    refine ⟨_, hdec, b64decode_length hdec, fun k j hj hkj => ?_⟩
    rw [b64decode_length hdec] at hkj
    rw [getD_take hkj, b64Quanta_getD k _ j hj (by rw [paddedValues_length hvs h4]; omega)]
    simp only [hval]

/-- Settles O40: a pad that is counted stands in the last two places; any other character outside the alphabet is not
skipped. -/
theorem base64SkipsNothing : Obligations.Base64SkipsNothing := by
  refine fun strict text => ⟨fun i hi hval hout => ?_, fun hpad hlast => ?_, fun h4 => b64decode_of_ragged h4 strict⟩
  · have hle := b64PadCount_le text
    refine b64decode_of_not_alphabet (i := i) ?_ hval strict
    by_contra hnot
    rcases hout with hne | hlt
    · exact hne (getD_of_padCount_le (by omega) hi)
    · omega
  · have hpos : 0 < text.length := List.length_pos_iff.2 fun h => by simp [h] at hpad
    refine b64decode_of_not_alphabet (i := text.length - 2) ?_ (by rw [hpad]; exact b64Value_padChar) strict
    rw [b64PadCount_eq_zero hlast]
    omega

/-- Settles O41: the two decoders differ in the tail's condition alone. -/
theorem base64StrictTail : Obligations.Base64StrictTail := by
  intro text out hlen
  rw [b64decode_eq_some_iff, b64decode_eq_some_iff]
  constructor
  · rintro ⟨h4, vs, hvs, ht, hout⟩
    exact ⟨⟨h4, vs, hvs, nofun, hout⟩, (b64TailZero_iff_text (by omega) hvs).1 (ht rfl)⟩
  · rintro ⟨⟨h4, vs, hvs, -, hout⟩, ht⟩
    exact ⟨h4, vs, hvs, fun _ => (b64TailZero_iff_text (by omega) hvs).2 ht, hout⟩

/-- Settles O42: the number of bytes determines the text's length and padding, and the bytes determine its values. -/
theorem strictBase64TextsAreCanonical : Obligations.StrictBase64TextsAreCanonical := by
  intro text text' out h h'
  have h4 := length_mod_of_b64decode h
  have h4' := length_mod_of_b64decode h'
  obtain ⟨hlen, hpads⟩ : text.length = text'.length ∧ b64PadCount text = b64PadCount text' := by
    have hout := b64decode_length h
    have hout' := b64decode_length h'
    have hle := b64PadCount_le text
    have hle' := b64PadCount_le text'
    have hroom := b64PadCount_le_length h4
    have hroom' := b64PadCount_le_length h4'
    omega
  obtain ⟨vs, hvs, hq⟩ := paddedQuanta_of_strict h
  obtain ⟨vs', hvs', hq'⟩ := paddedQuanta_of_strict h'
  have hpadded := b64Quanta_inj (text.length / 4) (by rw [paddedValues_length hvs h4]; omega)
    (by rw [paddedValues_length hvs' h4']; omega) (by rw [hq, hq', hpads])
  rw [hpads] at hpadded
  obtain rfl := List.append_cancel_right hpadded
  rw [← take_append_padding h4, ← take_append_padding h4', b64Values_inj hvs hvs', hpads]

end Sys2Proof.Machine
end

section
/-! PROOF. The statements about the cipher (42_aes256_cbc.md): the field and its tables, the inverse round transforms, the
key expansion, the inverse cipher and CBC as bijections, and the initialisation check of DECRYPT_RAW. -/
namespace Sys2Proof.Machine

/-! ### Multiplication in the field, bit by bit (R94, R95) -/

theorem xor_xor_xor_comm (a b c d : Byte) : (a ^^^ b) ^^^ (c ^^^ d) = (a ^^^ c) ^^^ (b ^^^ d) := by
  ac_rfl

/-- A term that is present when a bit is 1. -/
theorem ite_xor (p q : Bool) (a : Byte) :
    (if (p ^^ q) = true then a else 0) = (if p = true then a else 0) ^^^ (if q = true then a else 0) := by
  cases p <;> cases q <;> simp

theorem xtime_zero : xtime 0 = 0 := by decide

theorem xtime_xor (a b : Byte) : xtime (a ^^^ b) = xtime a ^^^ xtime b := by
  rw [xtime, BitVec.getLsbD_xor, ite_xor, BitVec.shiftLeft_xor_distrib, xor_xor_xor_comm, xtime, xtime]

theorem gfMulBits_xor_right (a b c : Byte) (k : Nat) :
    gfMulBits a (b ^^^ c) k = gfMulBits a b k ^^^ gfMulBits a c k := by
  induction k generalizing a b c with
  | zero => exact BitVec.xor_self.symm
  | succ k ih =>
    simp only [gfMulBits, BitVec.ushiftRight_xor_distrib, ih, BitVec.getLsbD_xor]
    rw [ite_xor, xor_xor_xor_comm]

theorem gfMulBits_xor_left (a b c : Byte) (k : Nat) :
    gfMulBits (a ^^^ b) c k = gfMulBits a c k ^^^ gfMulBits b c k := by
  induction k generalizing a b c with
  | zero => exact BitVec.xor_self.symm
  | succ k ih =>
    simp only [gfMulBits, xtime_xor, ih]
    rw [xor_xor_xor_comm]
    cases c.getLsbD 0 <;> simp

theorem gfMulBits_xtime_left (a b : Byte) (k : Nat) : gfMulBits (xtime a) b k = xtime (gfMulBits a b k) := by
  induction k generalizing a b with
  | zero => exact xtime_zero.symm
  | succ k ih => rw [gfMulBits, gfMulBits, ih, xtime_xor, apply_ite xtime, xtime_zero]

/-- The highest of the bits read stands last. -/
theorem gfMulBits_succ (a b : Byte) (k : Nat) :
    gfMulBits a b (k + 1) = gfMulBits a b k ^^^ (if b.getLsbD k then xtime^[k] a else 0) := by
  induction k generalizing a b with
  | zero => simp [gfMulBits]
  | succ k ih =>
    rw [gfMulBits, ih, gfMulBits, BitVec.getLsbD_ushiftRight, Nat.add_comm 1 k, ← BitVec.xor_assoc,
      Function.iterate_succ_apply]

/-- Only the bits read count. -/
theorem gfMulBits_congr {b c : Byte} (a : Byte) {k : Nat} (h : ∀ i, i < k → b.getLsbD i = c.getLsbD i) :
    gfMulBits a b k = gfMulBits a c k := by
  induction k with
  | zero => rfl
  | succ k ih => rw [gfMulBits_succ, gfMulBits_succ, ih fun i hi => h i (by omega), h k (by omega)]

theorem gfMul_xor_right (a b c : Byte) : gfMul a (b ^^^ c) = gfMul a b ^^^ gfMul a c := gfMulBits_xor_right a b c 8

theorem gfMul_xor_left (a b c : Byte) : gfMul (a ^^^ b) c = gfMul a c ^^^ gfMul b c := gfMulBits_xor_left a b c 8

theorem gfMul_xtime_left (a b : Byte) : gfMul (xtime a) b = xtime (gfMul a b) := gfMulBits_xtime_left a b 8

theorem gfMul_zero : ∀ a : Byte, gfMul a 0 = 0 := by decide +kernel

theorem gfMul_one : ∀ a : Byte, gfMul a 0x01 = a := by decide +kernel

theorem one_gfMul : ∀ a : Byte, gfMul 0x01 a = a := by decide +kernel

/-- The reduction by `m(x)`: `x^8` is `0x1B`. -/
theorem gfMul_reduction : ∀ a : Byte, gfMul a 0x1B = xtime^[8] a := by decide +kernel

/-- A shift that drops bit 7 multiplies what is left by `x`. -/
theorem gfMul_shiftLeft (a b : Byte) : gfMul a (b <<< 1) = gfMulBits (xtime a) b 7 := by
  have hbit0 : (b <<< 1).getLsbD 0 = false := by simp
  rw [gfMul, gfMulBits, hbit0, if_neg (by decide)]
  refine BitVec.zero_xor.trans (gfMulBits_congr _ fun i hi => ?_)
  have hlt : 1 + i < 8 := by omega
  rw [BitVec.getLsbD_ushiftRight, BitVec.getLsbD_shiftLeft, decide_eq_true hlt]
  simp

/-- Multiplication by `x` of the right factor: bit 7 of it is worth `x^7`, so `x^8` after it. -/
theorem gfMul_xtime_right (a b : Byte) : gfMul a (xtime b) = xtime (gfMul a b) := by
  have hlast : gfMul a (if b.getLsbD 7 = true then 0x1B else 0x00) =
      if b.getLsbD 7 = true then xtime^[7] (xtime a) else 0 := by
    split
    · exact gfMul_reduction a
    · exact gfMul_zero a
  rw [xtime, gfMul_xor_right, gfMul_shiftLeft, hlast, ← gfMulBits_succ, ← gfMul_xtime_left, gfMul]

/-! ### The constants of `InvMixColumns` (R95, R100) -/

theorem const09_eq : (0x09 : Byte) = xtime (xtime (xtime 0x01)) ^^^ 0x01 := by decide

theorem const0B_eq : (0x0B : Byte) = xtime (xtime (xtime 0x01)) ^^^ xtime 0x01 ^^^ 0x01 := by decide

theorem const0D_eq : (0x0D : Byte) = xtime (xtime (xtime 0x01)) ^^^ xtime (xtime 0x01) ^^^ 0x01 := by decide

theorem const0E_eq : (0x0E : Byte) = xtime (xtime (xtime 0x01)) ^^^ xtime (xtime 0x01) ^^^ xtime 0x01 := by decide

theorem gfMul_const (a : Byte) : gfMul a 0x02 = xtime a ∧ gfMul a 0x09 = mul09 a ∧ gfMul a 0x0B = mul0B a ∧
    gfMul a 0x0D = mul0D a ∧ gfMul a 0x0E = mul0E a := by
  have hx : (0x02 : Byte) = xtime 0x01 := by decide
  rw [hx, const09_eq, const0B_eq, const0D_eq, const0E_eq]
  simp only [gfMul_xor_right, gfMul_xtime_right, gfMul_one]
  exact ⟨trivial, rfl, rfl, rfl, rfl⟩

theorem const_gfMul (a : Byte) : gfMul 0x09 a = mul09 a ∧ gfMul 0x0B a = mul0B a ∧ gfMul 0x0D a = mul0D a ∧
    gfMul 0x0E a = mul0E a := by
  rw [const09_eq, const0B_eq, const0D_eq, const0E_eq]
  simp only [gfMul_xor_left, gfMul_xtime_left, one_gfMul]
  exact ⟨rfl, rfl, rfl, rfl⟩

/-- One column of `InvMixColumns` over the field (R100). -/
theorem invMixColumn_eq_gfMul (a : Column) : invMixColumn a =
    { b0 := gfMul 0x0E a.b0 ^^^ gfMul 0x0B a.b1 ^^^ gfMul 0x0D a.b2 ^^^ gfMul 0x09 a.b3
      b1 := gfMul 0x09 a.b0 ^^^ gfMul 0x0E a.b1 ^^^ gfMul 0x0B a.b2 ^^^ gfMul 0x0D a.b3
      b2 := gfMul 0x0D a.b0 ^^^ gfMul 0x09 a.b1 ^^^ gfMul 0x0E a.b2 ^^^ gfMul 0x0B a.b3
      b3 := gfMul 0x0B a.b0 ^^^ gfMul 0x0D a.b1 ^^^ gfMul 0x09 a.b2 ^^^ gfMul 0x0E a.b3 } := by
  simp only [const_gfMul, invMixColumn]

/-! ### The S-boxes (R97, R98) -/

/-- The affine map of R97, undone. -/
def sboxAffineInv (y : Byte) : Byte := y.rotateLeft 1 ^^^ y.rotateLeft 3 ^^^ y.rotateLeft 6 ^^^ 0x05

theorem getLsbD_sboxAffineInv : ∀ y : Byte, ∀ i, i < 8 → y.getLsbD i =
    ((sboxAffineInv y).getLsbD i ^^ (sboxAffineInv y).getLsbD ((i + 4) % 8) ^^ (sboxAffineInv y).getLsbD ((i + 5) % 8) ^^
      (sboxAffineInv y).getLsbD ((i + 6) % 8) ^^ (sboxAffineInv y).getLsbD ((i + 7) % 8) ^^ (0x63#8).getLsbD i) := by
  decide +kernel

theorem sboxAffineInv_sbox_zero : sboxAffineInv (sbox 0) = 0 := by decide

/-- Under the affine map the S-box holds the field inverse. -/
theorem gfMul_sboxAffineInv_sbox : ∀ b : Byte, b ≠ 0 → gfMul b (sboxAffineInv (sbox b)) = 0x01 := by decide +kernel

theorem invSbox_sbox : ∀ b : Byte, invSbox (sbox b) = b := by decide +kernel

theorem sbox_invSbox : ∀ b : Byte, sbox (invSbox b) = b := by decide +kernel

theorem invSbox_bijective : Function.Bijective invSbox :=
  Function.bijective_iff_has_inverse.2 ⟨sbox, sbox_invSbox, invSbox_sbox⟩

/-! ### The round transforms are bijections -/

theorem Column.map_bijective {f : Byte → Byte} (hf : Function.Bijective f) : Function.Bijective (Column.map f) := by
  obtain ⟨g, hl, hr⟩ := Function.bijective_iff_has_inverse.1 hf
  refine Function.bijective_iff_has_inverse.2 ⟨Column.map g, fun a => ?_, fun a => ?_⟩
  · simp only [Column.map, hl _]
  · simp only [Column.map, hr _]

theorem AesBlock.mapColumns_bijective {f : Column → Column} (hf : Function.Bijective f) :
    Function.Bijective (AesBlock.mapColumns f) := by
  obtain ⟨g, hl, hr⟩ := Function.bijective_iff_has_inverse.1 hf
  refine Function.bijective_iff_has_inverse.2 ⟨AesBlock.mapColumns g, fun s => ?_, fun s => ?_⟩
  · simp only [AesBlock.mapColumns, hl _]
  · simp only [AesBlock.mapColumns, hr _]

theorem invSubBytes_bijective : Function.Bijective invSubBytes :=
  AesBlock.mapColumns_bijective (Column.map_bijective invSbox_bijective)

/-- Four rotations of a row are none. -/
theorem invShiftRows_bijective : Function.Bijective invShiftRows :=
  Function.bijective_iff_has_inverse.2
    ⟨fun s => invShiftRows (invShiftRows (invShiftRows s)), fun _ => rfl, fun _ => rfl⟩

/-- One column of the forward `MixColumns`: the matrix with the rows `02 03 01 01`, rotated. -/
def mixColumn (a : Column) : Column :=
  { b0 := xtime a.b0 ^^^ (xtime a.b1 ^^^ a.b1) ^^^ a.b2 ^^^ a.b3
    b1 := a.b0 ^^^ xtime a.b1 ^^^ (xtime a.b2 ^^^ a.b2) ^^^ a.b3
    b2 := a.b0 ^^^ a.b1 ^^^ xtime a.b2 ^^^ (xtime a.b3 ^^^ a.b3)
    b3 := (xtime a.b0 ^^^ a.b0) ^^^ a.b1 ^^^ a.b2 ^^^ xtime a.b3 }

/-- In either order the products of the matrices are the identity: all other powers of `x` cancel. -/
theorem mixColumn_inverse (a : Column) : mixColumn (invMixColumn a) = a ∧ invMixColumn (mixColumn a) = a := by
  simp only [invMixColumn, mixColumn, mul09, mul0B, mul0D, mul0E, xtime_xor]
  ac_nf
  simp only [xor_cancel_left, BitVec.xor_self, BitVec.xor_zero]

theorem invMixColumn_bijective : Function.Bijective invMixColumn :=
  Function.bijective_iff_has_inverse.2
    ⟨mixColumn, fun a => (mixColumn_inverse a).1, fun a => (mixColumn_inverse a).2⟩

theorem invMixColumns_bijective : Function.Bijective invMixColumns :=
  AesBlock.mapColumns_bijective invMixColumn_bijective

theorem Column.xor_xor_cancel_right (a b : Column) : (a.xor b).xor b = a := by
  simp only [Column.xor, xor_cancel_right]

theorem addRoundKey_involutive (w : List Column) (k : Nat) : Function.Involutive (addRoundKey w k) := fun s => by
  simp only [addRoundKey, Column.xor_xor_cancel_right]

theorem invRound_bijective (w : List Column) (k : Nat) : Function.Bijective (invRound w k) :=
  invMixColumns_bijective.comp
    ((addRoundKey_involutive w k).bijective.comp (invSubBytes_bijective.comp invShiftRows_bijective))

theorem invRounds_bijective (w : List Column) (k : Nat) : Function.Bijective (invRounds w k) := by
  induction k with
  | zero => exact Function.bijective_id
  | succ k ih => exact ih.comp (invRound_bijective w (k + 1))

/-! ### The inverse cipher (R106) -/

theorem invCipherBlock_bijective (w : List Column) : Function.Bijective (invCipherBlock w) :=
  (addRoundKey_involutive w 0).bijective.comp (invSubBytes_bijective.comp (invShiftRows_bijective.comp
    ((invRounds_bijective w 13).comp (addRoundKey_involutive w 14).bijective)))

@[simp] theorem loadBlock_storeBlock (s : AesBlock) : loadBlock (storeBlock s) = s := rfl

theorem storeBlock_injective : Function.Injective storeBlock := Function.LeftInverse.injective loadBlock_storeBlock

theorem aes256InvCipher_inj {b b' : List Byte} (w : List Column) (hb : b.length = 16) (hb' : b'.length = 16)
    (h : aes256InvCipher b w = aes256InvCipher b' w) : b = b' := by
  have hload := (invCipherBlock_bijective w).injective (storeBlock_injective h)
  rw [← storeBlock_loadBlock b hb, hload, storeBlock_loadBlock b' hb']

theorem exists_aes256InvCipher_eq {out : List Byte} (w : List Column) (h : out.length = 16) :
    ∃ b, b.length = 16 ∧ aes256InvCipher b w = out := by
  obtain ⟨s, hs⟩ := (invCipherBlock_bijective w).surjective (loadBlock out)
  refine ⟨storeBlock s, rfl, ?_⟩
  rw [aes256InvCipher, loadBlock_storeBlock, hs, storeBlock_loadBlock out h]

/-! ### The key expansion (R102) -/

theorem expandWords_length (key : List Byte) (n : Nat) : (expandWords key n).length = n + 8 := by
  induction n with
  | zero => rfl
  | succ n ih => rw [expandWords, List.length_append, ih, List.length_singleton, Nat.add_right_comm]

/-- Words once made stay. -/
theorem expandWords_getD_of_le (key : List Byte) {n m i : Nat} (hi : i < n + 8) (hm : n ≤ m) :
    (expandWords key m).getD i Column.zero = (expandWords key n).getD i Column.zero := by
  induction m, hm using Nat.le_induction with
  | base => rfl
  | succ m hm ih => rw [expandWords, List.getD_append _ _ _ _ (by rw [expandWords_length]; omega), ih]

theorem keyExpansion_getD (key : List Byte) {n i : Nat} (hi : i < n + 8) (hn : n ≤ 52) :
    (keyExpansion key).getD i Column.zero = (expandWords key n).getD i Column.zero :=
  expandWords_getD_of_le key hi hn

theorem keyExpansion_getD_key (key : List Byte) {i : Nat} (hi : i < 8) :
    (keyExpansion key).getD i Column.zero = columnAt key (4 * i) := by
  rw [keyExpansion_getD key (n := 0) hi (by omega)]
  interval_cases i <;> rfl

theorem keyExpansion_getD_step (key : List Byte) {i : Nat} (h8 : 8 ≤ i) (h60 : i < 60) :
    (keyExpansion key).getD i Column.zero = ((keyExpansion key).getD (i - 8) Column.zero).xor
      (expandTemp i ((keyExpansion key).getD (i - 1) Column.zero)) := by
  obtain ⟨n, rfl⟩ : ∃ n, i = n + 8 := ⟨i - 8, by omega⟩
  have hold (j : Nat) (hj : j < n + 8) := keyExpansion_getD key (n := n) hj (by omega)
  rw [show n + 8 - 8 = n by omega, show n + 8 - 1 = n + 7 by omega, hold n (by omega), hold (n + 7) (by omega),
    keyExpansion_getD key (n := n + 1) (by omega) (by omega), expandWords,
    List.getD_append_right _ _ _ _ (by rw [expandWords_length]), expandWords_length, Nat.sub_self]
  rfl

/-! ### CBC (R107) -/

theorem xorBytes_xorBytes_cancel {a b : List Byte} (h : a.length = b.length) : xorBytes (xorBytes a b) b = a := by
  refine List.ext_getElem (by simp [xorBytes, h]) fun i hi hi' => ?_
  simp [xorBytes]

/-- Block `i` of the output, from a chaining block `prev` on. -/
theorem cbcBlocks_block (w : List Column) {m i : Nat} {prev ct : List Byte} (hp : prev.length = 16)
    (hc : ct.length = 16 * m) (hi : i < m) :
    ((cbcBlocks w m prev ct).drop (16 * i)).take 16 = xorBytes (aes256InvCipher ((ct.drop (16 * i)).take 16) w)
      (if i = 0 then prev else (ct.drop (16 * (i - 1))).take 16) := by
  induction m generalizing prev ct i with
  | zero => omega
  | succ m ih =>
    have hfirst : (xorBytes (aes256InvCipher (ct.take 16) w) prev).length = 16 := by simp [xorBytes, hp]
    rw [cbcBlocks]
    cases i with
    | zero => rw [Nat.mul_zero, List.drop_zero, List.drop_zero, List.take_left' hfirst, if_pos rfl]
    | succ i =>
      rw [Nat.mul_succ, Nat.add_comm, ← List.drop_drop, List.drop_left' hfirst,
        ih (by rw [List.length_take]; omega) (by rw [List.length_drop]; omega) (by omega), List.drop_drop,
        if_neg (Nat.succ_ne_zero i), Nat.add_sub_cancel]
      cases i with
      | zero => rfl
      | succ i =>
        rw [if_neg (Nat.succ_ne_zero i), List.drop_drop, Nat.add_sub_cancel, Nat.mul_succ, Nat.add_comm 16 (16 * i)]

/-- Each block of the output has one block of ciphertext, given the one before. -/
theorem cbcBlocks_inj (w : List Column) {m : Nat} {prev ct ct' : List Byte} (hp : prev.length = 16)
    (hc : ct.length = 16 * m) (hc' : ct'.length = 16 * m) (h : cbcBlocks w m prev ct = cbcBlocks w m prev ct') :
    ct = ct' := by
  induction m generalizing prev ct ct' with
  | zero => rw [List.eq_nil_of_length_eq_zero hc, List.eq_nil_of_length_eq_zero hc']
  | succ m ih =>
    have hb : (ct.take 16).length = 16 := by rw [List.length_take]; omega
    have hb' : (ct'.take 16).length = 16 := by rw [List.length_take]; omega
    obtain ⟨hhead, htail⟩ := List.append_inj h (by simp [xorBytes])
    have haes := congrArg (xorBytes · prev) hhead
    simp only [xorBytes_xorBytes_cancel ((aes256InvCipher_length _ w).trans hp.symm)] at haes
    have hblock := aes256InvCipher_inj w hb hb' haes
    rw [← hblock] at htail
    have hrest := ih hb (by rw [List.length_drop]; omega) (by rw [List.length_drop]; omega) htail
    rw [← List.take_append_drop 16 ct, hblock, hrest, List.take_append_drop]

theorem exists_cbcBlocks_eq (w : List Column) {m : Nat} {prev buf : List Byte} (hp : prev.length = 16)
    (hbuf : buf.length = 16 * m) : ∃ ct, ct.length = 16 * m ∧ cbcBlocks w m prev ct = buf := by
  induction m generalizing prev buf with
  | zero => exact ⟨[], rfl, (List.eq_nil_of_length_eq_zero hbuf).symm⟩
  | succ m ih =>
    have hb : (buf.take 16).length = prev.length := by rw [List.length_take]; omega
    obtain ⟨c, hc, haes⟩ := exists_aes256InvCipher_eq w ((xorBytes_length (buf.take 16) prev hb).trans (hb.trans hp))
    obtain ⟨cs, hcs, hrest⟩ := ih hc (by rw [List.length_drop]; omega : (buf.drop 16).length = 16 * m)
    refine ⟨c ++ cs, by rw [List.length_append]; omega, ?_⟩
    rw [cbcBlocks, List.take_left' hc, List.drop_left' hc, haes, xorBytes_xorBytes_cancel hb, hrest,
      List.take_append_drop]

theorem cbcDecrypt_inj {ct ct' key iv : List Byte} (hi : iv.length = 16) (hc : ct.length % 16 = 0)
    (hc' : ct'.length % 16 = 0) (h : cbcDecrypt ct key iv = cbcDecrypt ct' key iv) : ct = ct' := by
  have hlen : ct.length = ct'.length := by
    rw [← cbcDecrypt_length ct key iv hc hi, h, cbcDecrypt_length ct' key iv hc' hi]
  rw [cbcDecrypt, cbcDecrypt, ← hlen] at h
  exact cbcBlocks_inj (keyExpansion key) hi (by omega) (by omega) h

theorem exists_cbcDecrypt_eq {buf iv : List Byte} (key : List Byte) (hi : iv.length = 16) (hb : buf.length % 16 = 0) :
    ∃ ct, ct.length = buf.length ∧ cbcDecrypt ct key iv = buf := by
  have hblocks : buf.length = 16 * (buf.length / 16) := by omega
  obtain ⟨ct, hlen, hdec⟩ := exists_cbcBlocks_eq (keyExpansion key) hi hblocks
  refine ⟨ct, by omega, ?_⟩
  rw [cbcDecrypt, hlen, Nat.mul_div_cancel_left _ (by decide), hdec]

/-- The Padding Remover undoes the padding (R112, R115). -/
theorem pkcs7Unpad_append_padding {p : List Byte} (hp : p ≠ []) {n : Nat} (h1 : 1 ≤ n) (h16 : n ≤ 16) :
    pkcs7Unpad (p ++ List.replicate n (BitVec.ofNat 8 n)) = .plaintext p := by
  have hlen : (p ++ List.replicate n (BitVec.ofNat 8 n)).length = p.length + n := by simp
  have hlast : (p ++ List.replicate n (BitVec.ofNat 8 n)).getD (p.length + n - 1) 0 = BitVec.ofNat 8 n := by
    rw [List.getD_append_right _ _ _ _ (by omega), List.getD_replicate _ (by omega)]
  have hnat : (BitVec.ofNat 8 n).toNat = n := (BitVec.toNat_ofNat _ _).trans (Nat.mod_eq_of_lt (by omega))
  have hpos := List.length_pos_iff.2 hp
  simp only [pkcs7Unpad, hlen, hlast, hnat, Nat.add_sub_cancel, List.drop_left, List.take_left]
  rw [if_neg (by omega), if_pos (by simp), if_neg (by omega)]

/-! ### The cipher's initialisation check (R76, R109) -/

/-- With rows 1-6 of R71 passed, DECRYPT_RAW reports the length that is wrong. -/
theorem exec_cbcInit_error {s : State} (ha : s.InputsAccepted) {e : CmdError}
    (h : cbcInit s.keyLen.toNat s.ivLen.toNat = some e) :
    exec .decryptRaw s = .next (s.failedWith e.code e.field e.exp e.act) := by
  have hkeys : rawKeyIv s = .error e := by rw [rawKeyIv, h]
  have hearly : earlyError .decryptRaw s = some e := by
    rw [earlyError, (decryptChecks_eq_none_iff s).2 ha, hkeys]
    rfl
  rw [exec_earlyError hearly, raiseCmdError_early e s (cbcInit_early _ _ e h)]

theorem cbcInit_of_keyLen {s : State} (hk : s.keyLen ≠ 32) :
    cbcInit s.keyLen.toNat s.ivLen.toNat = some ⟨.cipherInitFailure, .key, 32, s.keyLen⟩ := by
  have hne : s.keyLen.toNat ≠ 32 := fun h => hk (BitVec.eq_of_toNat_eq h)
  rw [cbcInit, if_pos hne, BitVec.ofNat_toNat, BitVec.setWidth_eq]

theorem cbcInit_of_ivLen {s : State} (hk : s.keyLen = 32) (hv : s.ivLen ≠ 16) :
    cbcInit s.keyLen.toNat s.ivLen.toNat = some ⟨.cipherInitFailure, .iv, 16, s.ivLen⟩ := by
  have hne : s.ivLen.toNat ≠ 16 := fun h => hv (BitVec.eq_of_toNat_eq h)
  rw [cbcInit, hk, if_neg (by decide), if_pos hne, BitVec.ofNat_toNat, BitVec.setWidth_eq]

theorem validateText_code {s : State} {e : CmdError} (h : validateText s = some e) :
    e.code = .emptyInput ∨ e.code = .unalignedCiphertext := by
  unfold validateText at h
  repeat' split at h
  all_goals cases h
  all_goals simp

/-- Rows 1-6 of R71 are no failure of the cipher's initialisation. -/
theorem decryptChecks_code_ne_cipherInit {s : State} {e : CmdError} (h : decryptChecks s = some e) :
    e.code ≠ .cipherInitFailure := by
  cases hv : validateText s with
  | some e' =>
    obtain rfl : e' = e := Option.some.inj ((decryptChecks_of_validateText hv).symm.trans h)
    rcases validateText_code hv with hcode | hcode <;> simp [hcode]
  | none => rcases decryptChecks_code ((validateText_eq_none_iff s).1 hv) h with hcode | hcode <;> simp [hcode]

theorem textKeyIv_code_ne_cipherInit {s : State} {e : CmdError} (h : textKeyIv s = .error e) :
    e.code ≠ .cipherInitFailure := by
  rcases textKeyIv_code h with hcode | hcode | hcode <;> simp [hcode]

/-- Only DECRYPT_RAW raises CipherInitFailure (R76). -/
theorem earlyError_code_ne_cipherInit {i : Instr} (hi : i ≠ .decryptRaw) {s : State} {e : CmdError}
    (h : earlyError i s = some e) : e.code ≠ .cipherInitFailure := by
  have htext (h : (decryptChecks s).or (keyIvError (textKeyIv s)) = some e) : e.code ≠ .cipherInitFailure :=
    (Option.or_eq_some_iff.1 h).elim decryptChecks_code_ne_cipherInit fun hk =>
      textKeyIv_code_ne_cipherInit ((keyIvError_eq_some_iff _ e).1 hk.2)
  cases i with
  | decryptRaw => exact absurd rfl hi
  | decrypt => exact htext h
  | decryptClassify => exact htext h
  | classify =>
    obtain ⟨-, hcode, -⟩ := regionsCheck_early _ _ e h
    simp [hcode]

/-- The codes after the CBC stage: a late failure's, or what the launch left. -/
theorem endAfterCbc_code_ne_cipherInit {s : State} (hs : s.status.code ≠ .cipherInitFailure) (i : Instr) (k : KeyIv)
    (u : Unpadded) : (endAfterCbc i k s u).status.code ≠ .cipherInitFailure := by
  cases u with
  | padFail => simp [endAfterCbc, paddingError]
  | empty => simp [endAfterCbc, emptyError]
  | plaintext r => simpa [endAfterCbc, decrypted] using hs

theorem exec_code_ne_cipherInit {i : Instr} (hi : i ≠ .decryptRaw) {s t : State}
    (hs : s.status.code ≠ .cipherInitFailure) (h : exec i s = .next t) : t.status.code ≠ .cipherInitFailure := by
  cases hearly : earlyError i s with
  | some e =>
    cases (exec_earlyError hearly).symm.trans h
    exact earlyError_code_ne_cipherInit hi hearly
  | none =>
    by_cases hc : i = .classify
    · subst hc
      cases (exec_classify_of_earlyError_eq_none hearly).symm.trans h
      exact hs
    · obtain ⟨ha, key, iv, hd⟩ := decryptsWith_of_earlyError_eq_none hc hearly
      cases (exec_eq_endAfterCbc ha hd).symm.trans h
      exact endAfterCbc_code_ne_cipherInit hs i _ _

/-! ### The obligations -/

/-- Settles O30: each failure as the answer of `cbcInit`; with the right lengths, and in the other commands, no code that
can be reported is CipherInitFailure. -/
theorem rawLengthFailuresInOrder : Obligations.RawLengthFailuresInOrder := by
  refine ⟨fun s ha => ⟨fun hk => exec_cbcInit_error ha (cbcInit_of_keyLen hk),
    fun hk hv => exec_cbcInit_error ha (cbcInit_of_ivLen hk hv), fun hk hv hs => ?_⟩,
    fun s t i hi => exec_code_ne_cipherInit hi⟩
  exact ⟨_, exec_eq_endAfterCbc ha (decryptRaw_decryptsWith hk hv), endAfterCbc_code_ne_cipherInit hs _ _ _⟩

/-- Settles O45: a word of the expansion is the one made at its step, from words made before it. -/
theorem keyExpansionRecurrence : Obligations.KeyExpansionRecurrence := by
  refine ⟨fun key _ => ⟨expandWords_length key 52, fun _ => keyExpansion_getD_key key,
    fun _ => keyExpansion_getD_step key, fun _ _ _ => rfl⟩, by decide, fun j hj => ?_, fun _ => ⟨rfl, rfl, rfl⟩,
    fun _ => ⟨rfl, rfl⟩, fun _ _ => rfl⟩
  obtain ⟨k, rfl⟩ := Nat.exists_eq_add_of_le' hj
  rfl

/-- Settles O46: each transform of a round has an inverse, and a block is loaded and stored without loss. -/
theorem inverseCipherIsABijection : Obligations.InverseCipherIsABijection := fun w =>
  ⟨fun _ => rfl, fun b => aes256InvCipher_length b w, fun _ _ => aes256InvCipher_inj w,
    fun _ => exists_aes256InvCipher_eq w⟩

/-- Settles O47, by induction on the blocks. -/
theorem cbcBlockEquation : Obligations.CbcBlockEquation :=
  ⟨fun a b h => ⟨xorBytes_length a b h, xorBytes_getD a b h⟩, fun ct key iv hc hi =>
    ⟨cbcDecrypt_length ct key iv hc hi, fun _ => cbcBlocks_block (keyExpansion key) hi (by omega)⟩⟩

/-- Settles O48: CBC decryption is a bijection on buffers of whole blocks, and the padded plaintext is one. -/
theorem everyPlaintextHasOneCiphertext : Obligations.EveryPlaintextHasOneCiphertext := by
  intro key iv p hi hp
  generalize hn : 16 - p.length % 16 = n
  have hpadded : (p ++ List.replicate n (BitVec.ofNat 8 n)).length = p.length + n := by simp
  have hblocks : (p ++ List.replicate n (BitVec.ofNat 8 n)).length % 16 = 0 := by omega
  obtain ⟨ct, hlen, hdec⟩ := exists_cbcDecrypt_eq key hi hblocks
  refine ⟨ct, hlen.trans hpadded, hdec, ?_, fun ct' hc' h => cbcDecrypt_inj hi hc' (by omega) h⟩
  rw [hdec, pkcs7Unpad_append_padding hp (by omega) (by omega)]

/-- Settles O43: the S-box by its inverse under the affine map, and the constants as sums of powers of `x`. -/
theorem tablesAndConstantsAreThoseOfTheField : Obligations.TablesAndConstantsAreThoseOfTheField := by
  refine ⟨fun b => ⟨sboxAffineInv (sbox b), fun h => h ▸ sboxAffineInv_sbox_zero, gfMul_sboxAffineInv_sbox b,
    getLsbD_sboxAffineInv (sbox b)⟩, invSbox_sbox, fun a => ?_, fun a => ⟨rfl, rfl, rfl, rfl, rfl⟩,
    fun a b c => ⟨gfMul_one a, gfMul_xor_right a b c, gfMul_xtime_right a b⟩⟩
  obtain ⟨h02, h09, h0B, h0D, h0E⟩ := gfMul_const a
  exact ⟨h02.symm, h09.symm, h0B.symm, h0D.symm, h0E.symm⟩

/-- Settles O44: the sixteen bytes of each transformed state, and the matrix with the constants on the left. -/
theorem inverseRoundTransforms : Obligations.InverseRoundTransforms := by
  refine ⟨fun s r c hr hc => ?_, fun s a _ => ⟨rfl, invMixColumn_eq_gfMul a⟩, fun w k s r c hr hc => ?_,
    fun s j hj => ?_, fun _ => rfl, fun _ => rfl, storeBlock_loadBlock⟩
  · interval_cases r <;> interval_cases c <;> rfl
  · interval_cases r <;> interval_cases c <;> rfl
  · interval_cases j <;> rfl

end Sys2Proof.Machine
end


section
/-! PROOF. The statements about the Padding Remover (43_pkcs7.md). What it does on padding is
`pkcs7Unpad_append_padding`, and what its plaintext says of the buffer is `pkcs7Unpad_eq_append`; here the buffers that
are padding alone. -/
namespace Sys2Proof.Machine

/-! ### Padding with nothing before it (R115) -/

theorem pkcs7Unpad_block : pkcs7Unpad (List.replicate 16 0x10) = .empty := by decide

/-- Padding alone that fills a block is the one block of sixteen bytes 0x10. -/
theorem pkcs7Unpad_padding {n : Nat} (hn : n ≤ 16) (h16 : 16 ≤ ([] ++ List.replicate n (BitVec.ofNat 8 n)).length) :
    pkcs7Unpad ([] ++ List.replicate n (BitVec.ofNat 8 n)) = .empty := by
  rw [List.nil_append, List.length_replicate] at h16
  obtain rfl : n = 16 := by omega
  exact pkcs7Unpad_block

/-- The empty result needs `n` to reach the buffer's length, which is 16 or more. -/
theorem eq_block_of_pkcs7Unpad_eq_empty {buf : List Byte} (h : pkcs7Unpad buf = .empty) (h16 : 16 ≤ buf.length) :
    buf = List.replicate 16 0x10 := by
  simp only [pkcs7Unpad] at h
  generalize buf.getD (buf.length - 1) 0 = last at h
  split at h
  · cases h
  next hrange =>
    split at h
    next hall =>
      split at h
      next hzero =>
        have hn : last.toNat = 16 := by omega
        obtain rfl : last = 0x10 := BitVec.eq_of_toNat_eq hn
        rw [hzero, List.drop_zero] at hall
        exact List.eq_replicate_iff.2 ⟨by omega, by simpa using hall⟩
      · cases h
    · cases h

theorem pkcs7Unpad_eq_empty_iff {buf : List Byte} (h16 : 16 ≤ buf.length) :
    pkcs7Unpad buf = .empty ↔ buf = List.replicate 16 0x10 :=
  ⟨fun h => eq_block_of_pkcs7Unpad_eq_empty h h16, fun h => h ▸ pkcs7Unpad_block⟩

/-! ### The other two outcomes -/

theorem pkcs7Unpad_eq_plaintext_iff {buf : List Byte} (h16 : 16 ≤ buf.length) (r : List Byte) :
    pkcs7Unpad buf = .plaintext r ↔
      r ≠ [] ∧ ∃ n, 1 ≤ n ∧ n ≤ 16 ∧ buf = r ++ List.replicate n (BitVec.ofNat 8 n) := by
  constructor
  · intro h
    obtain ⟨n, h1, hn, rfl⟩ := pkcs7Unpad_eq_append h h16
    refine ⟨?_, n, h1, hn, rfl⟩
    rintro rfl
    cases (pkcs7Unpad_padding hn h16).symm.trans h
  · rintro ⟨hr, n, h1, hn, rfl⟩
    exact pkcs7Unpad_append_padding hr h1 hn

/-- Each of the other outcomes is that of a padded buffer, and a padded buffer has one of them. -/
theorem pkcs7Unpad_eq_padFail_iff {buf : List Byte} (h16 : 16 ≤ buf.length) :
    pkcs7Unpad buf = .padFail ↔
      ¬∃ r n, 1 ≤ n ∧ n ≤ 16 ∧ buf = r ++ List.replicate n (BitVec.ofNat 8 n) := by
  constructor
  · rintro h ⟨r, n, h1, hn, rfl⟩
    by_cases hr : r = []
    · subst hr
      cases (pkcs7Unpad_padding hn h16).symm.trans h
    · cases (pkcs7Unpad_append_padding hr h1 hn).symm.trans h
  · intro h
    cases hu : pkcs7Unpad buf with
    | padFail => rfl
    | empty => exact absurd ⟨[], 16, by decide, by decide, eq_block_of_pkcs7Unpad_eq_empty hu h16⟩ h
    | plaintext r => exact absurd ⟨r, pkcs7Unpad_eq_append hu h16⟩ h

/-! ### The obligation -/

/-- Settles O49: one equivalence for each outcome of the Padding Remover. -/
theorem pkcs7AcceptsExactlyValidPadding : Obligations.Pkcs7AcceptsExactlyValidPadding := fun _ h16 _ =>
  ⟨pkcs7Unpad_eq_plaintext_iff h16, pkcs7Unpad_eq_empty_iff h16, pkcs7Unpad_eq_padFail_iff h16⟩

end Sys2Proof.Machine
end


section
/-! PROOF. The statements about classification (44_classify.md): the two ends of CLASSIFY and what each leaves alone, and
the Format Sniffer by its signatures. -/
namespace Sys2Proof.Machine

/-! ### The two ends of CLASSIFY (R123) -/

theorem exec_classify_inside {s : State} (h : s.srcLen = 0 ∨ s.srcAddr.toNat + s.srcLen.toNat ≤ s.memSize) :
    exec .classify s = .next (finishOk (classified s)) :=
  exec_classify_of_earlyError_eq_none ((classifyRegions_check_iff s).2 h)

theorem exec_classify_past {s : State} (hlen : s.srcLen ≠ 0) (h : s.memSize < s.srcAddr.toNat + s.srcLen.toNat) :
    exec .classify s = .next (s.failedWith .busError .src 0 s.srcAddr) := by
  have hearly := regionsCheck_cons_past (r := s.srcRegion) (toNat_ne_zero hlen) h .src []
  rw [exec_earlyError (i := .classify) hearly, raiseCmdError_early _ s ⟨by simp, rfl⟩]
  simp [State.srcRegion]

/-- The whole state after a success, from a legal machine (R123, R135). -/
theorem finishOk_classified {s : State} (hl : s.Legal) (hb : s.status.busy = true) :
    finishOk (classified s) =
      { s with
        status := Status.completed s.status.ovr .none .none
        cls := Cls.ofTag (sniff s.ciphertext)
        clsSize := s.srcLen
        keyBuf := none
        ivBuf := none
        keySched := none
        prev := none } := by
  rw [← legal_completed hl hb]
  rfl

/-- CLASSIFY has no end but these two. -/
theorem exec_classify_cases {s t : State} (h : exec .classify s = .next t) :
    (s.srcLen = 0 ∨ s.srcAddr.toNat + s.srcLen.toNat ≤ s.memSize) ∧ t = finishOk (classified s) ∨
    (s.srcLen ≠ 0 ∧ s.memSize < s.srcAddr.toNat + s.srcLen.toNat) ∧ t = s.failedWith .busError .src 0 s.srcAddr := by
  by_cases hin : s.srcLen = 0 ∨ s.srcAddr.toNat + s.srcLen.toNat ≤ s.memSize
  · cases (exec_classify_inside hin).symm.trans h
    exact .inl ⟨hin, rfl⟩
  · push Not at hin
    cases (exec_classify_past hin.1 hin.2).symm.trans h
    exact .inr ⟨hin, rfl⟩

/-! ### The signatures of the Format Sniffer (R117, R119) -/

/-- `buf` has the signature of the tag's format, and enough bytes to be looked at; `unknown` has no signature and asks
nothing. -/
def Tag.SignatureIn (buf : List Byte) : Tag → Prop
  | .jpeg => 8 ≤ buf.length ∧ sigJpeg <+: buf
  | .png => sigPng <+: buf
  | .gif => 8 ≤ buf.length ∧ (sigGif87a <+: buf ∨ sigGif89a <+: buf)
  | .webp => sigRiff <+: buf ∧ sigWebp <+: buf.drop 8
  | .bmp => 8 ≤ buf.length ∧ sigBmp <+: buf
  | .unknown => True

theorem isPrefix_of_take_eq {sig buf : List Byte} {n : Nat} (h : buf.take n = sig) : sig <+: buf :=
  h ▸ List.take_prefix n buf

theorem sniff_of_short {buf : List Byte} (h : buf.length < 8) : sniff buf = .unknown := if_pos h

/-- The row that answers is one whose signature the buffer has. -/
theorem sniff_signatureIn (buf : List Byte) : (sniff buf).SignatureIn buf := by
  simp only [sniff]
  split
  · trivial
  next hlen =>
    have h8 : 8 ≤ buf.length := by omega
    split
    next h => exact ⟨h8, isPrefix_of_take_eq h⟩
    split
    next h => exact isPrefix_of_take_eq h
    split
    next h => exact ⟨h8, h.imp isPrefix_of_take_eq isPrefix_of_take_eq⟩
    split
    next h =>
      obtain ⟨-, hriff, hwebp⟩ := h
      exact ⟨isPrefix_of_take_eq hriff, isPrefix_of_take_eq hwebp⟩
    split
    next h => exact ⟨h8, isPrefix_of_take_eq h⟩
    trivial

/-- No row answers before the one whose signature the buffer has: the signatures differ in their first byte. -/
theorem sniff_of_signatureIn {buf : List Byte} {t : Tag} (ht : t ≠ .unknown) (h : t.SignatureIn buf) : sniff buf = t := by
  cases t with
  | unknown => exact absurd rfl ht
  | jpeg =>
    obtain ⟨h8, rest, rfl⟩ := h
    rw [sniff, if_neg (by omega)]
    simp [sigJpeg]
  | png =>
    obtain ⟨rest, rfl⟩ := h
    simp [sniff, sigJpeg, sigPng]
  | gif =>
    obtain ⟨h8, ⟨rest, rfl⟩ | ⟨rest, rfl⟩⟩ := h
    · rw [sniff, if_neg (by omega)]
      simp [sigJpeg, sigPng, sigGif87a]
    · rw [sniff, if_neg (by omega)]
      simp [sigJpeg, sigPng, sigGif87a, sigGif89a]
  | webp =>
    obtain ⟨⟨rest, rfl⟩, hwebp⟩ := h
    replace hwebp : sigWebp <+: rest.drop 4 := hwebp
    have hrest : 8 ≤ rest.length := by
      have hlen : 4 ≤ (rest.drop 4).length := hwebp.length_le
      rw [List.length_drop] at hlen
      omega
    have htake : (rest.drop 4).take 4 = sigWebp := (List.prefix_iff_eq_take.1 hwebp).symm
    rw [sniff, if_neg (by rw [List.length_append]; omega)]
    simp [htake, hrest, sigJpeg, sigPng, sigGif87a, sigGif89a, sigRiff]
  | bmp =>
    obtain ⟨h8, rest, rfl⟩ := h
    rw [sniff, if_neg (by omega)]
    simp [sigJpeg, sigPng, sigGif87a, sigGif89a, sigRiff, sigBmp]

/-- The signatures end within 12 bytes (R117). -/
theorem sniff_take (buf : List Byte) : sniff buf = sniff (buf.take 12) := by
  have h8 : min 12 buf.length < 8 ↔ buf.length < 8 := by omega
  have h12 : 12 ≤ min 12 buf.length ↔ 12 ≤ buf.length := by omega
  simp [sniff, List.take_take, List.drop_take, h8, h12]

/-! ### The obligations -/

/-- Settles O25: the region check decides which of its two ends CLASSIFY has. -/
theorem classifyPublishesTheTag : Obligations.ClassifyPublishesTheTag := by
  intro s hl hb
  refine ⟨fun hin => ?_, fun ⟨hlen, hpast⟩ => exec_classify_past hlen hpast⟩
  rw [exec_classify_inside hin, finishOk_classified hl hb, Cls.ofTag_eq]

/-- Settles O36: each end of CLASSIFY writes the registers of its own report. -/
theorem frameOfClassify : Obligations.FrameOfClassify := by
  intro s t h
  refine ⟨exec_sameSetup h, ?_⟩
  rcases exec_classify_cases h with ⟨hin, rfl⟩ | ⟨⟨hlen, hpast⟩, rfl⟩
  · exact ⟨rfl, rfl, rfl, fun _ => ⟨rfl, rfl, rfl, rfl, rfl⟩,
      fun ⟨hlen, hpast⟩ => absurd (hin.resolve_left hlen) (Nat.not_le.2 hpast)⟩
  · exact ⟨rfl, rfl, rfl, fun hin => absurd (hin.resolve_left hlen) (Nat.not_le.2 hpast), fun _ => ⟨rfl, rfl⟩⟩

/-- Settles O50: a buffer has the signature of a format exactly when the sniffer answers it. -/
theorem sniffBySignature : Obligations.SniffBySignature := by
  intro buf
  have hiff : ∀ t : Tag, t ≠ .unknown → (sniff buf = t ↔ t.SignatureIn buf) := fun t ht =>
    ⟨fun h => h ▸ sniff_signatureIn buf, sniff_of_signatureIn ht⟩
  exact ⟨hiff .jpeg (by decide), hiff .png (by decide), hiff .gif (by decide), hiff .webp (by decide),
    hiff .bmp (by decide), sniff_of_short, sniff_take buf⟩

end Sys2Proof.Machine
end


section
/-! PROOF. The statements about completion, errors and the interrupt (60_exceptions.md): every completion ends with the
working copies scrubbed, `irq` is read off `STATUS` and `CTRL`, and which context goes with which error code. -/
namespace Sys2Proof.Machine

/-! ### Every completion ends (R133) -/

/-- A completion never faults and never refuses, whatever word is in flight (R69). -/
theorem complete_next (s : State) : ∃ t, complete s = .next t := by
  cases hd : decode s.pendingWord with
  | ok i =>
    rw [complete_of_decode_ok hd]
    exact exec_next i s
  | error e => exact ⟨_, complete_of_decode_error hd⟩

/-- What `exec_completes` says of the commands, for illegal words too. -/
theorem complete_completes {s t : State} (h : complete s = .next t) :
    t.status.busy = false ∧ t.status.done = true ∧ t.Scrubbed ∧ t.irqEn = s.irqEn ∧ t.status.ovr = s.status.ovr := by
  rcases complete_cases h with ⟨i, -, hx⟩ | ⟨e, -, rfl⟩
  · exact exec_completes hx
  · exact ⟨rfl, rfl, illegalCommand_scrubbed s, rfl, rfl⟩

/-! ### `irq` (R137) -/

theorem ctrlWord_bit (b : Bool) : (ctrlWord b).getLsbD 0 = b := by cases b <;> rfl

theorem irq_eq_false_of_not_done {s : State} (h : s.status.done = false) : s.irq = false := by
  rw [State.irq, h, Bool.false_and]

theorem irq_of_done {s : State} (h : s.status.done = true) : s.irq = s.irqEn := by
  rw [State.irq, h, Bool.true_and]

theorem writeOneToClear_done {v : Word} (hv : v.getLsbD 1 = true) (st : Status) :
    (st.writeOneToClear v).done = false := by
  simp [Status.writeOneToClear, hv]

/-! ### The report of a completion (R130, R131) -/

/-- The error report of a machine, as `raise CmdError` takes it (R134). -/
def State.report (s : State) : CmdError :=
  { code := s.status.code, field := s.status.field, exp := s.errExp, act := s.errAct }

/-- A launch has cleared the report (R67). -/
theorem legal_busy_report {s : State} (hl : s.Legal) (hb : s.status.busy = true) : s.report = ⟨.none, .none, 0, 0⟩ := by
  obtain ⟨-, hcode, hfield, -, hexp, hact, -⟩ := legal_busy hl hb
  rw [State.report, hcode, hfield, hexp, hact]

/-- The errors that a completion can raise on `s`, with the context that R131 gives each: rows 1-14 of R71, and the
illegal word of R59. -/
inductive State.Raises (s : State) : CmdError → Prop
  | emptyInput {f : ErrField} (hf : f = .key ∨ f = .iv ∨ f = .src) : s.Raises ⟨.emptyInput, f, 0, 0⟩
  | unalignedCiphertext : s.Raises ⟨.unalignedCiphertext, .src, 16, s.srcLen⟩
  | busError {f : ErrField} {r : Region} (hr : (f, r) ∈ s.decryptRegions) :
    s.Raises ⟨.busError, f, 0, BitVec.ofNat 32 r.addr⟩
  | bufferOverlap {f : ErrField} (hf : f = .src ∨ f = .key ∨ f = .iv) : s.Raises ⟨.bufferOverlap, f, 0, 0⟩
  | base64DecodeFailure {f : ErrField} (hf : f = .key ∨ f = .iv) : s.Raises ⟨.base64DecodeFailure, f, 0, 0⟩
  | keyLengthMismatch {key : List Byte}
    (hkey : b64decode s.params.b64StrictTail (s.regionBytes s.keyRegion) = some key) (hlen : key.length ≠ 32) :
    s.Raises ⟨.keyLengthMismatch, .key, 32, BitVec.ofNat 32 key.length⟩
  | ivLengthMismatch {iv : List Byte}
    (hiv : b64decode s.params.b64StrictTail (s.regionBytes s.ivRegion) = some iv) (hlen : iv.length ≠ 16) :
    s.Raises ⟨.ivLengthMismatch, .iv, 16, BitVec.ofNat 32 iv.length⟩
  | keyCipherInit : s.Raises ⟨.cipherInitFailure, .key, 32, s.keyLen⟩
  | ivCipherInit : s.Raises ⟨.cipherInitFailure, .iv, 16, s.ivLen⟩
  | padding : s.Raises paddingError
  | emptyPlaintext : s.Raises emptyError
  | illegalCommand : s.Raises ⟨.illegalCommand, .none, 0, s.pendingWord⟩

theorem validateText_raises {s : State} {e : CmdError} (h : validateText s = some e) : s.Raises e := by
  unfold validateText at h
  repeat' split at h
  · cases h; exact .emptyInput (.inl rfl)
  · cases h; exact .emptyInput (.inr (.inl rfl))
  · cases h; exact .emptyInput (.inr (.inr rfl))
  · cases h; exact .unalignedCiphertext
  · cases h

/-- The regions of CLASSIFY are among those of a decrypt command, so one row serves both (R44). -/
theorem regionsCheck_raises {s : State} {l : List (ErrField × Region)} (hl : l ⊆ s.decryptRegions) {e : CmdError}
    (h : regionsCheck s.memSize l = some e) : s.Raises e := by
  obtain ⟨-, hcode, hexp, ⟨f, r⟩, hmem, hfield, hact⟩ := regionsCheck_early _ _ _ h
  obtain rfl : e = ⟨.busError, f, 0, BitVec.ofNat 32 r.addr⟩ := by
    rw [← hcode, ← show e.field = f from hfield, ← hexp, ← hact]
  exact .busError (hl hmem)

theorem overlapCheck_raises {s : State} {e : CmdError} (h : overlapCheck s = some e) : s.Raises e := by
  unfold overlapCheck at h
  repeat' split at h
  · cases h; exact .bufferOverlap (.inl rfl)
  · cases h; exact .bufferOverlap (.inr (.inl rfl))
  · cases h; exact .bufferOverlap (.inr (.inr rfl))
  · cases h

theorem decryptChecks_raises {s : State} {e : CmdError} (h : decryptChecks s = some e) : s.Raises e := by
  unfold decryptChecks at h
  split at h
  next hv => exact validateText_raises (hv.trans h)
  · split at h
    next hr => exact regionsCheck_raises (List.Subset.refl _) (hr.trans h)
    · exact overlapCheck_raises h

theorem textKeyIv_raises {s : State} {e : CmdError} (h : textKeyIv s = .error e) : s.Raises e := by
  unfold textKeyIv at h
  split at h
  · cases h; exact .base64DecodeFailure (.inl rfl)
  next key hkey =>
    split at h
    · cases h; exact .base64DecodeFailure (.inr rfl)
    next iv hiv =>
      split at h
      next hlen => cases h; exact .keyLengthMismatch hkey hlen
      next hk =>
        split at h
        next hlen => cases h; exact .ivLengthMismatch hiv hlen
        next hv =>
          rw [(cbcInit_eq_none_iff _ _).2 ⟨not_not.1 hk, not_not.1 hv⟩] at h
          cases h

theorem cbcInit_raises {s : State} {e : CmdError} (h : cbcInit s.keyLen.toNat s.ivLen.toNat = some e) : s.Raises e := by
  by_cases hk : s.keyLen = 32
  · by_cases hv : s.ivLen = 16
    · rw [hk, hv] at h
      cases h
    · cases (cbcInit_of_ivLen hk hv).symm.trans h
      exact .ivCipherInit
  · cases (cbcInit_of_keyLen hk).symm.trans h
    exact .keyCipherInit

theorem rawKeyIv_raises {s : State} {e : CmdError} (h : rawKeyIv s = .error e) : s.Raises e := by
  unfold rawKeyIv at h
  split at h
  next hc =>
    cases h
    exact cbcInit_raises hc
  · cases h

/-- Rows 1-12 of R71, and the region check of CLASSIFY. -/
theorem earlyError_raises {i : Instr} {s : State} {e : CmdError} (h : earlyError i s = some e) : s.Raises e := by
  have htext (h : (decryptChecks s).or (keyIvError (textKeyIv s)) = some e) : s.Raises e :=
    (Option.or_eq_some_iff.1 h).elim decryptChecks_raises fun hk =>
      textKeyIv_raises ((keyIvError_eq_some_iff _ e).1 hk.2)
  cases i with
  | classify => exact regionsCheck_raises (by simp [State.classifyRegions, State.decryptRegions]) h
  | decrypt => exact htext h
  | decryptClassify => exact htext h
  | decryptRaw =>
    exact (Option.or_eq_some_iff.1 h).elim decryptChecks_raises fun hk =>
      rawKeyIv_raises ((keyIvError_eq_some_iff _ e).1 hk.2)

/-- After the CBC stage: rows 13 and 14 of R71, or a success, which leaves the report alone (R135). -/
theorem endAfterCbc_report (i : Instr) (k : KeyIv) (s : State) (u : Unpadded) :
    (endAfterCbc i k s u).report = s.report ∨ s.Raises (endAfterCbc i k s u).report := by
  cases u with
  | padFail => exact .inr .padding
  | empty => exact .inr .emptyPlaintext
  | plaintext r => exact .inl rfl

theorem exec_report {i : Instr} {s t : State} (h : exec i s = .next t) : t.report = s.report ∨ s.Raises t.report := by
  cases hearly : earlyError i s with
  | some e =>
    cases (exec_earlyError hearly).symm.trans h
    exact .inr (earlyError_raises hearly)
  | none =>
    by_cases hi : i = .classify
    · subst hi
      cases (exec_classify_of_earlyError_eq_none hearly).symm.trans h
      exact .inl rfl
    · obtain ⟨ha, key, iv, hd⟩ := decryptsWith_of_earlyError_eq_none hi hearly
      cases (exec_eq_endAfterCbc ha hd).symm.trans h
      exact endAfterCbc_report i _ s _

/-- Every completion leaves the report alone or raises one of the errors of `State.Raises`. -/
theorem complete_report {s t : State} (h : complete s = .next t) : t.report = s.report ∨ s.Raises t.report := by
  rcases complete_cases h with ⟨i, -, hx⟩ | ⟨e, -, rfl⟩
  · exact exec_report hx
  · exact .inr .illegalCommand

/-- The length of a decoded text fits in `ERR_ACT`: the text is no longer than its length register says (R91). -/
theorem ofNat_length_of_b64decode {strict : Bool} {m : Memory} {addr : Nat} {len : Word} {out : List Byte}
    (h : b64decode strict (memRead m addr len.toNat) = some out) : (BitVec.ofNat 32 out.length).toNat = out.length := by
  have hlen := b64decode_length h
  rw [memRead_length] at hlen
  have := len.isLt
  rw [BitVec.toNat_ofNat, Nat.mod_eq_of_lt (by omega)]

/-- The regions of a decrypt command by field, each with the address register it starts at (R43, R131). -/
theorem decryptRegions_addr {s : State} {f : ErrField} {r : Region} (h : (f, r) ∈ s.decryptRegions) :
    f = .key ∧ BitVec.ofNat 32 r.addr = s.keyAddr ∨ f = .iv ∧ BitVec.ofNat 32 r.addr = s.ivAddr ∨
      f = .src ∧ BitVec.ofNat 32 r.addr = s.srcAddr ∨ f = .dst ∧ BitVec.ofNat 32 r.addr = s.dstAddr := by
  simp only [State.decryptRegions, List.mem_cons, Prod.mk.injEq, List.not_mem_nil, or_false] at h
  rcases h with ⟨rfl, rfl⟩ | ⟨rfl, rfl⟩ | ⟨rfl, rfl⟩ | ⟨rfl, rfl⟩ <;>
    simp [State.keyRegion, State.ivRegion, State.srcRegion, State.dstRegion]

/-- The word in flight of a legal machine (R35). -/
theorem legal_busy_pending {s : State} (hl : s.Legal) (hb : s.status.busy = true) : some s.pendingWord = s.pending := by
  obtain ⟨c, hc⟩ := Option.isSome_iff_exists.1 (hl.busy_pending hb)
  rw [State.pendingWord, hc, Option.getD_some]

/-! ### The obligations -/

/-- Settles O20: a completion is that of the decoded command or of an illegal word, and both end the same way. -/
theorem completionEndsEveryCommand : Obligations.CompletionEndsEveryCommand := by
  refine ⟨fun s => engineTurn_idle, fun s i hb hd => (engineTurn_busy hb).trans (complete_of_decode_ok hd),
    fun s hb => ?_, fun i s => ?_⟩
  · obtain ⟨t, ht⟩ := complete_next s
    obtain ⟨hbusy, hdone, hscrub, -⟩ := complete_completes ht
    exact ⟨t, (engineTurn_busy hb).trans ht, hbusy, hdone, hscrub⟩
  · obtain ⟨t, ht⟩ := exec_next i s
    obtain ⟨hbusy, hdone, hscrub, -⟩ := exec_completes ht
    exact ⟨t, ht, hbusy, hdone, hscrub⟩

/-- Settles O13: each event by what it leaves in `DONE` and `IRQ_EN`. -/
theorem interruptFollowsDoneAndEnable : Obligations.InterruptFollowsDoneAndEnable := by
  refine ⟨fun s => ?_, fun s t v hv h => ?_, fun s t c hb h => ?_, fun s t h => ?_, fun s t v h => ?_, fun s t hb h => ?_⟩
  · obtain ⟨-, hdone, -⟩ := s.status.word_flags
    rw [State.regWord, State.regWord, hdone, ctrlWord_bit, State.irq]
  · cases (hostAccess_regWrite s .status v).symm.trans h
    exact irq_eq_false_of_not_done (writeOneToClear_done hv s.status)
  · cases (hostAccess_cmdWrite_idle hb c).symm.trans h
    exact irq_eq_false_of_not_done rfl
  · cases h
    exact irq_eq_false_of_not_done rfl
  · cases (hostAccess_regWrite s .ctrl v).symm.trans h
    rfl
  · obtain ⟨-, hdone, -, hen, -⟩ := complete_completes ((engineTurn_busy hb).symm.trans h)
    rw [irq_of_done hdone, hen]

/-- Settles O33: the report is the launch's or that of an error of `State.Raises`, whose rows carry the context. -/
theorem errorContextByCode : Obligations.ErrorContextByCode := by
  intro s t hl hb h
  obtain ⟨e, he, hraises⟩ : ∃ e, t.report = e ∧ (e = ⟨.none, .none, 0, 0⟩ ∨ s.Raises e) :=
    ⟨_, rfl, legal_busy_report hl hb ▸ complete_report h⟩
  obtain ⟨hcode, hfield, hexp, hact⟩ := CmdError.mk.inj he
  rw [hcode, hfield, hexp, hact]
  rcases hraises with rfl | hraises
  · exact ⟨rfl, rfl, rfl⟩
  cases hraises with
  | emptyInput hf => exact ⟨hf, rfl, rfl⟩
  | unalignedCiphertext => exact ⟨rfl, rfl, rfl⟩
  | busError hr => exact ⟨decryptRegions_addr hr, rfl⟩
  | bufferOverlap hf => exact ⟨hf, rfl, rfl⟩
  | base64DecodeFailure hf => exact ⟨hf, rfl, rfl⟩
  | keyLengthMismatch hkey hlen => exact ⟨rfl, rfl, _, hkey, ofNat_length_of_b64decode hkey, hlen⟩
  | ivLengthMismatch hiv hlen => exact ⟨rfl, rfl, _, hiv, ofNat_length_of_b64decode hiv, hlen⟩
  | keyCipherInit => exact .inl ⟨rfl, rfl, rfl⟩
  | ivCipherInit => exact .inr ⟨rfl, rfl, rfl⟩
  | padding => exact ⟨rfl, rfl, rfl⟩
  | emptyPlaintext => exact ⟨rfl, rfl, rfl⟩
  | illegalCommand => exact ⟨rfl, rfl, legal_busy_pending hl hb⟩

end Sys2Proof.Machine
end

section
/-! PROOF. The statements about reset and hazards (70_reset_and_hazards.md): what the reset input leaves in the registers
and in the data memory, and that a HOST that polls sees the completion. -/
namespace Sys2Proof.Machine

/-! ### Reset (R146, R147) -/

theorem idWord_eq_or (p : Params) : idWord p = 0x00010000#32 ||| p.idVersion.setWidth 32 := by
  rw [idWord, BitVec.append_def]
  rfl

theorem reset_regWord {r : Reg} (h : r ≠ .id) : State.reset.regWord r = 0 := by
  cases r with
  | id => exact absurd rfl h
  | _ => rfl

/-- `ID` apart, a reset leaves every register as power-on does (R146). -/
theorem resetInput_regWord (s : State) {r : Reg} (h : r ≠ .id) : (resetInput s).regWord r = State.reset.regWord r := by
  cases r with
  | id => exact absurd rfl h
  | _ => rfl

/-- Without a decrypt command in flight a reset does not touch the data memory (R147, R148). -/
theorem resetInput_mem_of_no_decrypt {s : State} (h : s.decryptInFlight = false) : (resetInput s).mem = s.mem := by
  rw [resetInput_mem, h]
  rfl

theorem decryptInFlight_eq_false {s : State} (h : s.status.busy = false ∨ decode s.pendingWord = .ok .classify ∨
    ∃ e, decode s.pendingWord = .error e) : s.decryptInFlight = false := by
  rw [← Bool.not_eq_true, decryptInFlight_iff]
  rintro ⟨hb, i, hi, hne⟩
  rcases h with hidle | hd | ⟨e, hd⟩
  · simp [hb] at hidle
  · cases hi.symm.trans hd
    exact hne rfl
  · cases hi.symm.trans hd

/-! ### A HOST that polls (R157, R159) -/

/-- Some number of steps from here a poll has read `DONE = 1`, and with it the script is done. -/
def State.PollSeesDone (s : State) : Prop :=
  ∃ k t w rest, Host.Core.run Sys2Proof.core k s = .next t ∧ t.Final ∧ t.status.done = true ∧
    t.reads = .reg Reg.status.offset w :: rest ∧ w.getLsbD 1 = true

theorem run_succ_of_step {s u : State} (h : step s = .next u) (k : Nat) :
    Host.Core.run Sys2Proof.core (k + 1) s = Host.Core.run Sys2Proof.core k u := by
  have hcore : Sys2Proof.core.step s = .next u := h
  simp only [Host.Core.run, hcore]

theorem pollSeesDone_of_step {s u : State} (h : step s = .next u) (hu : u.PollSeesDone) : s.PollSeesDone := by
  obtain ⟨k, t, w, rest, hrun, hend⟩ := hu
  exact ⟨k + 1, t, w, rest, (run_succ_of_step h k).trans hrun, hend⟩

/-- The poll that reads `DONE = 1` is the last step. -/
theorem pollSeesDone_of_poll {s u : State} (h : step s = hostTurn u) (hscr : u.script = [.waitDone])
    (hb : u.status.busy = false) (hd : u.status.done = true) : s.PollSeesDone := by
  have hbit : u.status.word.getLsbD 1 = true := by
    obtain ⟨-, hdone, -⟩ := u.status.word_flags
    rw [hdone, hd]
  have hpoll := hostAccess_waitDone { u with script := [] }
  rw [if_pos hbit] at hpoll
  exact ⟨1, _, u.status.word, u.reads, run_succ_of_step (h.trans ((hostTurn_cons hscr).trans hpoll)) 0,
    ⟨rfl, hb⟩, hd, rfl, hbit⟩

/-- After a completion the ENGINE's turns pass, up to the HOST's next one. -/
theorem pollSeesDone_of_done {s : State} (hscr : s.script = [.waitDone]) (hb : s.status.busy = false)
    (hd : s.status.done = true) : s.PollSeesDone := by
  induction hsch : s.schedule generalizing s with
  | nil => exact pollSeesDone_of_poll (step_unscheduled_idle hsch hb) hscr hb hd
  | cons a rest ih =>
    cases a with
    | host => exact pollSeesDone_of_poll (step_host hsch) hscr hb hd
    | engine =>
      exact pollSeesDone_of_step ((step_engine hsch).trans (engineTurn_idle hb))
        (ih (s := { s with schedule := rest }) hscr hb hd rfl)

theorem complete_script {s t : State} (h : complete s = .next t) : t.script = s.script := by
  rcases complete_cases h with ⟨i, -, hx⟩ | ⟨e, -, rfl⟩
  · obtain ⟨-, -, -, -, -, hscript, -⟩ := exec_sameSetup hx
    exact hscript.symm
  · rfl

theorem pollSeesDone_of_complete {s u : State} (h : step s = complete u) (hscr : u.script = [.waitDone]) :
    s.PollSeesDone := by
  obtain ⟨t, ht⟩ := complete_next u
  obtain ⟨hb, hd, -⟩ := complete_completes ht
  exact pollSeesDone_of_step (h.trans ht) (pollSeesDone_of_done ((complete_script ht).trans hscr) hb hd)

/-- A poll that reads `DONE = 0` leaves the script as it was, and changes only what the HOST has read. -/
theorem hostTurn_poll_again {s : State} (hscr : s.script = [.waitDone]) (hd : s.status.done = false) :
    hostTurn s = .next (s.observe (.reg Reg.status.offset s.status.word)) := by
  have hbit : ¬s.status.word.getLsbD 1 = true := by
    obtain ⟨-, hdone, -⟩ := s.status.word_flags
    rw [hdone, hd]
    exact Bool.false_ne_true
  have hpoll := hostAccess_waitDone { s with script := [] }
  rw [if_neg hbit, ← hscr] at hpoll
  exact (hostTurn_cons hscr).trans hpoll

/-- While a command is in flight the HOST's turns are polls that read `DONE = 0`; they end, because the schedule is
finite, and the ENGINE's turn completes the command (R157; assumption 2). -/
theorem pollSeesDone_of_busy {s : State} (hscr : s.script = [.waitDone]) (hb : s.status.busy = true)
    (hd : s.status.done = false) : s.PollSeesDone := by
  induction hsch : s.schedule generalizing s with
  | nil => exact pollSeesDone_of_complete (step_unscheduled_busy hsch hb) hscr
  | cons a rest ih =>
    cases a with
    | engine => exact pollSeesDone_of_complete (step_engine_busy hsch hb) hscr
    | host =>
      exact pollSeesDone_of_step ((step_host hsch).trans (hostTurn_poll_again hscr hd)) (ih hscr hb hd rfl)

/-! ### The obligations -/

/-- Settles O17: only the destination of a decrypt command in flight is written, and `STATUS` and the results are those
of power-on. -/
theorem resetAbandonsTheCommand : Obligations.ResetAbandonsTheCommand := by
  intro s t h
  cases h
  refine ⟨rfl, rfl, rfl, ⟨rfl, rfl, rfl, rfl, rfl⟩, fun a ha => (resetInput_changedOnly s).frame a ?_,
    fun hn => resetInput_mem_of_no_decrypt (decryptInFlight_eq_false hn)⟩
  rintro ⟨hf, hdst, -⟩
  obtain ⟨hb, hi⟩ := (decryptInFlight_iff s).1 hf
  exact ha ⟨hb, hi, hdst⟩

/-- Settles O60, by induction on the schedule: first up to the completion, then up to the poll that reads it. -/
theorem pollingSeesCompletion : Obligations.PollingSeesCompletion := fun _ hl hb hscr =>
  pollSeesDone_of_busy hscr hb (hl.busy_not_done hb)

/-- Settles O16: a reset leaves what power-on leaves in every register but `ID`, which the parameters give. -/
theorem resetClearsEveryRegister : Obligations.ResetClearsEveryRegister :=
  ⟨fun s => ⟨resetInput s, rfl, rfl, fun _ hr => (resetInput_regWord s hr).trans (reset_regWord hr), rfl,
      resetInput_scrubbed s, irq_eq_false_of_not_done rfl⟩,
    idWord_eq_or Config.params, fun _ hr => reset_regWord hr, rfl, ⟨rfl, rfl, rfl, rfl⟩, irq_eq_false_of_not_done rfl⟩

end Sys2Proof.Machine
end
